-- ==== Sys2Proof/Word.lean ====
section
/-! DEFINITION. The bit widths of the block (00_scope.md R8, R13, R14): every value is unsigned. -/

namespace Sys2Proof

/-- The data unit: one 8-bit byte (R8). -/
abbrev Byte := BitVec 8

/-- A 32-bit command word or register (R13, R110). -/
abbrev Word := BitVec 32

/-- A 7-bit slave address (R8). -/
abbrev Addr7 := BitVec 7

/-- The 16-bit LEN field, payload index and TXN_INDEX (R13, R54, R59). -/
abbrev Len := BitVec 16

/-- A 12-bit byte offset into the host window (R13, R80). -/
abbrev Offset := BitVec 12

end Sys2Proof
end

