-- ==== Sys2Proof/Syntax.lean ====
section
/-! DEFINITION. The nine commands of the opcode table with their operands (30_encoding.md R112 to R114). -/

namespace Sys2Proof

/-- The read/write bit of an address frame (30_encoding.md R115). -/
inductive Rw where
  /-- `WRITE = 0`. -/
  | write
  /-- `READ = 1`. -/
  | read
  deriving DecidableEq, Repr, Inhabited

/-- A command of the block, one constructor per row of the opcode table (30_encoding.md R114).
The operands are the fields of R113. -/
inductive Instr where
  /-- `INIT` (41_bus_conditions.md R171). -/
  | init
  /-- `START` (41_bus_conditions.md R173). -/
  | start
  /-- `STOP` (41_bus_conditions.md R175). -/
  | stop
  /-- `SEND_ADDR addr, rw` (42_transmit.md R193). -/
  | sendAddr (addr : Addr7) (rw : Rw)
  /-- `SEND_BYTE data` (42_transmit.md R194). -/
  | sendByte (data : Byte)
  /-- `WAIT_ACK` (42_transmit.md R198). -/
  | waitAck
  /-- `ACK` (43_receive.md R222). -/
  | ack
  /-- `READ_BYTE` (43_receive.md R224). -/
  | readByte
  /-- `WRITE_TXN addr, len` (44_transaction.md R240). -/
  | writeTxn (addr : Addr7) (len : Len)
  deriving DecidableEq, Repr, Inhabited

end Sys2Proof
end

