-- ==== Sys2Proof/Config.lean ====
section
/-! DEFINITION. What the spec fixes once and for all (00_scope.md R9, R10), what an implementation chooses
(R11, R12), and the free values: constants with no body, so that nothing can be proved of their value. -/

namespace Sys2Proof

/-- A line level (00_scope.md R15). -/
inductive Level where
  /-- 0 -/
  | low
  /-- 1 -/
  | high
  deriving DecidableEq, Repr, Inhabited

namespace Config

/-- `T_SHORT`, microseconds (00_scope.md R9). -/
def tShort : Nat := 2

/-- `T_LONG`, microseconds (00_scope.md R9). -/
def tLong : Nat := 4

/-- `ACK_POLL_LIMIT` (00_scope.md R10). -/
def ackPollLimit : Nat := 100

/-- The largest `TXBUF_SIZE` (00_scope.md R11). -/
def txbufSizeMax : Nat := 3840

/-- The OPEN parameter `TXBUF_SIZE`, less one (00_scope.md R11; log entry 4). -/
opaque txbufSizePred : Fin 3840

/-- `TXBUF_SIZE`: any value from 1 to 3840 (00_scope.md R11; log entry 4). -/
def txbufSize : Nat := txbufSizePred.val + 1

/-- The OPEN parameter `T_POLL`, microseconds (00_scope.md R12; log entry 5). -/
opaque tPoll : NNRat

/-- How much longer than its lower bound the `n`-th draw's duration is: any number of microseconds `>= 0`
(40_bit_sequencer.md R145, R146; log entry 5). -/
opaque excess : Nat → NNRat

/-- The slave oracle's answer at the `n`-th draw, where the state holds no pending answer
(40_bit_sequencer.md R146, R158; log entry 7). -/
opaque slaveAnswer : Nat → Level

/-- `draw_level()` at the `n`-th draw: the latch after a write in input mode (40_bit_sequencer.md R144), a
sample in output mode (R146; log entry 6). -/
opaque drawLevel : Nat → Level

/-- What a read of an unwritten TXBUF byte gives at the `n`-th draw (20_memory.md R94; log entry 6). -/
opaque drawByte : Nat → Byte

/-- How many host steps the `n`-th draw puts before the engine's next step, where both agents could move and the
state's turns do not say: any number, but a finite one (40_bit_sequencer.md R152; log entry 10). -/
opaque hostLead : Nat → Nat

end Config

end Sys2Proof
end

