-- ==== Sys2Proof/WellFormed.lean ====
section
/-! DEFINITION. Which terms of `Instr` can ever be a running command. Operand widths are in the types; the one
remaining check is on LEN. -/

namespace Sys2Proof

/-- A command is well formed unless it is a `WRITE_TXN` longer than the largest TXBUF: `TXBUF_SIZE <= 3840`
(00_scope.md R11), and a word with `LEN > TXBUF_SIZE` is refused (40_bit_sequencer.md R153), so no block ever
runs it. Decoding does not make this check (30_encoding.md R116). -/
def WellFormed : Instr → Bool
  | .writeTxn _ len => decide (len.toNat ≤ Config.txbufSizeMax)
  | .init | .start | .stop | .sendAddr _ _ | .sendByte _ | .waitAck | .ack | .readByte => true

end Sys2Proof
end

