-- ==== Sys2Proof/Decode.lean ====
section
/-! DEFINITION. Command words: field extraction (30_encoding.md R111, R113), the total decoder (R116, R117) and
the encoder (R118). -/

namespace Sys2Proof

/-- Why a word is ILLEGAL (30_encoding.md R116). The block itself only knows ILLEGAL. -/
inductive IllegalWord where
  /-- Bits 7:4 are not 0. -/
  | reservedBits
  /-- OPC is 0x0 or 0xA to 0xF. -/
  | opcode
  /-- A must-be-zero part of ARG is not 0. -/
  | argument
  /-- A must-be-zero LEN is not 0. -/
  | length
  deriving DecidableEq, Repr

/-- `OPC = w[3:0]` (30_encoding.md R111). -/
def fieldOpc (w : Word) : BitVec 4 := w.extractLsb' 0 4

/-- `RSV = w[7:4]` (30_encoding.md R111). -/
def fieldRsv (w : Word) : BitVec 4 := w.extractLsb' 4 4

/-- `ARG = w[15:8]`, also `DATA` (30_encoding.md R111, R113). -/
def fieldArg (w : Word) : Byte := w.extractLsb' 8 8

/-- `ADDR7 = w[14:8]` (30_encoding.md R113). -/
def fieldAddr7 (w : Word) : Addr7 := w.extractLsb' 8 7

/-- Bit 15, `RW` (30_encoding.md R113). -/
def fieldRw (w : Word) : BitVec 1 := w.extractLsb' 15 1

/-- `LEN = w[31:16]` (30_encoding.md R113). -/
def fieldLen (w : Word) : Len := w.extractLsb' 16 16

/-- The read/write bit as a value: 0 is WRITE, 1 is READ (30_encoding.md R115). -/
def Rw.ofBit (b : BitVec 1) : Rw := if b = 0#1 then .write else .read

/-- The read/write value as a bit: WRITE = 0, READ = 1 (30_encoding.md R115). -/
def Rw.toBit : Rw → BitVec 1
  | .write => 0#1
  | .read => 1#1

/-- A format-N command: bits 31:8 must be 0 (30_encoding.md R112, R116). -/
def decodeFormatN (w : Word) (i : Instr) : Except IllegalWord Instr :=
  if fieldArg w ≠ 0#8 then .error .argument
  else if fieldLen w ≠ 0#16 then .error .length
  else .ok i

/-- `decode` (30_encoding.md R116): total on every 32-bit word. -/
def decode (w : Word) : Except IllegalWord Instr :=
  if fieldRsv w ≠ 0#4 then .error .reservedBits
  else match (fieldOpc w).toNat with
    | 0x1 => decodeFormatN w .init
    | 0x2 => decodeFormatN w .start
    | 0x3 => decodeFormatN w .stop
    | 0x4 => if fieldLen w = 0#16 then .ok (.sendAddr (fieldAddr7 w) (Rw.ofBit (fieldRw w))) else .error .length
    | 0x5 => if fieldLen w = 0#16 then .ok (.sendByte (fieldArg w)) else .error .length
    | 0x6 => decodeFormatN w .waitAck
    | 0x7 => decodeFormatN w .ack
    | 0x8 => decodeFormatN w .readByte
    | 0x9 => if fieldRw w = 0#1 then .ok (.writeTxn (fieldAddr7 w) (fieldLen w)) else .error .argument
    | _ => .error .opcode

/-- A word from its fields, most significant first: `{LEN, bit 15, bits 14:8, RSV = 0, OPC}` (30_encoding.md R111). -/
def packWord (len : Len) (bit15 : BitVec 1) (low7 : BitVec 7) (opc : BitVec 4) : Word :=
  len ++ bit15 ++ low7 ++ 0#4 ++ opc

/-- The word of a command (30_encoding.md R118). -/
def encode : Instr → Word
  | .init => packWord 0 0 0 0x1
  | .start => packWord 0 0 0 0x2
  | .stop => packWord 0 0 0 0x3
  | .sendAddr a rw => packWord 0 rw.toBit a 0x4
  | .sendByte d => packWord 0 (d.extractLsb' 7 1) (d.extractLsb' 0 7) 0x5
  | .waitAck => packWord 0 0 0 0x6
  | .ack => packWord 0 0 0 0x7
  | .readByte => packWord 0 0 0 0x8
  | .writeTxn a len => packWord len 0 a 0x9

/-- What the decoder reads from a command word whose low `nbits` bits are `w` and whose higher bits are 0.
A command is exactly one 32-bit word (30_encoding.md R110), so nothing is read from a longer one. -/
def decodeTableWord (nbits w : Nat) : Option Instr :=
  if nbits ≤ 32 then (decode (BitVec.ofNat 32 (w % 2 ^ nbits))).toOption else none

end Sys2Proof
end

