-- ==== Sys2Proof/Machine/State.lean ====
section
/-! DEFINITION. The state of the block as plain data (10_state.md, 20_memory.md R90 to R95), the inputs the
environment still has to give (40_bit_sequencer.md R140), and the state after reset (10_state.md R64). -/

namespace Sys2Proof.Machine

/-- The direction of the SDA pin (00_scope.md R15): `OUT` or `IN`. -/
inductive Dir where
  | output
  | input
  deriving DecidableEq, Repr

/-- The bus phase (10_state.md R40). -/
inductive Phase where
  | idle
  | start
  | address
  | data
  | ackWait
  | stop
  deriving DecidableEq, Repr

/-- RESULT.ACK_RESULT (10_state.md R51). -/
inductive AckResult where
  | noWait
  | acked
  | timeout
  deriving DecidableEq, Repr

/-- RESULT.TXN_STATUS (10_state.md R53). -/
inductive TxnStatus where
  | noTxn
  | ok
  | noAckAddress
  | noAckData
  deriving DecidableEq, Repr

/-- A trace event (40_bit_sequencer.md R148). -/
inductive Event where
  | dir (d : Dir)
  | scl (v : Level)
  | sda (v : Level)
  | sdaIgnored (v : Level)
  | delay (t : Nat)
  | sample (b : Level)
  deriving DecidableEq, Repr

/-- Which frame an acknowledgment wait belongs to: the address frame of WRITE_TXN (also the one wait of
WAIT_ACK), or a payload frame (44_transaction.md R240). -/
inductive Frame where
  | address
  | payload
  deriving DecidableEq, Repr

/-- The blocks of straight-line pseudocode between two decisions of a command (42_transmit.md R197,
44_transaction.md R240; log entry 2). Only a Sample and the end of an acknowledged wait are followed by a decision. -/
inductive Block where
  /-- From the command's first statement to its end or to its first Sample. -/
  | main
  /-- WAIT_SEQ after a HIGH sample that is not the last: one more Sample. -/
  | poll (f : Frame)
  /-- WAIT_SEQ after a LOW sample: `Drive(SCL, LOW)`. -/
  | acked (f : Frame)
  /-- WAIT_SEQ after the last HIGH sample: STOP_SEQ. -/
  | timeout (f : Frame)
  /-- WRITE_TXN after the acknowledgment of frame `f`: one payload frame, to the first Sample of its wait. -/
  | payload (f : Frame)
  /-- WRITE_TXN after the acknowledgment of its last frame `f`: the final STOP_SEQ. -/
  | close (f : Frame)
  deriving DecidableEq, Repr

/-- The sequencer position `s.upc` (10_state.md R60): the block and how many of its primitives are done. -/
structure Upc where
  block : Block
  pos : Nat
  deriving DecidableEq, Repr

/-- The width of a host access (20_memory.md R81): 8, 16 or 32 bits. -/
inductive Size where
  | byte
  | half
  | word
  deriving DecidableEq, Repr

/-- A host operation (30_encoding.md R119): `WR`, `RD`, `POLL`. -/
inductive HostOp where
  | write (off : Offset) (size : Size) (value : Word)
  | read (off : Offset) (size : Size)
  | poll (off : Offset) (mask value : Word)
  deriving DecidableEq, Repr

/-- What a host read returned. -/
structure HostRead where
  off : Offset
  size : Size
  data : Word
  deriving DecidableEq, Repr

/-- `HostBusError(offset, size)` (20_memory.md R84). -/
structure BusError where
  off : Offset
  size : Size
  deriving DecidableEq, Repr

/-- Whose step comes next, where that is given: an agent's, or the reset input's (40_bit_sequencer.md R140, R152). -/
inductive Turn where
  | engine
  | host
  | reset
  deriving DecidableEq, Repr

/-- Everything the spec gives the block, its observation state, and the environment's inputs. -/
structure State where
  /-- `s.scl` (10_state.md R32). -/
  scl : Level
  /-- `s.sda_dir` (10_state.md R33). -/
  sdaDir : Dir
  /-- `s.sda_out`, the latch (10_state.md R34). -/
  sdaOut : Level
  /-- `s.phase` (10_state.md R40). -/
  phase : Phase
  /-- `s.init_done` (10_state.md R43). -/
  initDone : Bool
  /-- `s.busy` (10_state.md R44). -/
  busy : Bool
  /-- STATUS.ERR_ILLEGAL (10_state.md R46). -/
  errIllegal : Bool
  /-- STATUS.ERR_OVERRUN (10_state.md R46). -/
  errOverrun : Bool
  /-- STATUS.ERR_NOINIT (10_state.md R46). -/
  errNoinit : Bool
  /-- STATUS.ERR_LEN (10_state.md R46). -/
  errLen : Bool
  /-- RESULT.ACK_RESULT (10_state.md R51). -/
  ackResult : AckResult
  /-- RESULT.POLL_COUNT (10_state.md R52). -/
  pollCount : Byte
  /-- RESULT.TXN_STATUS (10_state.md R53). -/
  txnStatus : TxnStatus
  /-- RESULT.TXN_INDEX (10_state.md R54). -/
  txnIndex : Len
  /-- RXDATA bits 7:0 (10_state.md R55). -/
  rxdata : Byte
  /-- `s.shift` (10_state.md R58). -/
  shift : Byte
  /-- `s.acc` (10_state.md R58). -/
  acc : Byte
  /-- `s.cmd` (10_state.md R59). -/
  cmd : Word
  /-- `s.polls` (10_state.md R59). -/
  polls : Byte
  /-- `s.idx` (10_state.md R59). -/
  idx : Len
  /-- `s.upc` (10_state.md R60). -/
  upc : Upc
  /-- The pseudocode's local `b` of 42_transmit.md R197 and 43_receive.md R223 (the model's own field; log entry 3). -/
  sampled : Level
  /-- `TXBUF_SIZE` (00_scope.md R11; the model's own field, changed by no step; log entry 4). -/
  txbufSize : Nat
  /-- The written TXBUF bytes by index: listed exactly where `s.txw[i] = 1` (10_state.md R61, 20_memory.md R94). -/
  txbuf : List Host.Cell
  /-- `s.trace`, oldest event first (10_state.md R62). -/
  trace : List Event
  /-- `s.time`, microseconds (10_state.md R62; log entry 5). -/
  time : Rat
  /-- The recorded `HostBusError`s, oldest first (20_memory.md R84; log entry 8). -/
  busErrors : List BusError
  /-- What the host's reads returned, oldest first (the model's own field; log entry 8). -/
  hostReads : List HostRead
  /-- The host operations still to come, next first (the model's own field; log entry 9). -/
  hostProg : List HostOp
  /-- The slave oracle's pending answers, next first (the model's own field; log entry 7). -/
  slave : List Level
  /-- Whose steps come next, where given, next first (the model's own field; log entry 10). -/
  turns : List Turn
  /-- How many host steps may still come before the engine's next step where the turns do not say, once that number has
  been drawn (40_bit_sequencer.md R152; the model's own field; log entry 10). -/
  lead : Option Nat
  /-- How many free values have been drawn (the model's own field; log entry 6). -/
  draws : Nat
  deriving DecidableEq, Repr

/-- Why the machine stops. -/
inductive Fault where
  /-- Raised by a command's meaning when `s.upc` names no primitive of that command. No run reaches such a
  state (`State.Inv`), and the spec gives `s.upc` no such value (10_state.md R60). Safe. -/
  | sequencerLost
  deriving DecidableEq, Repr

/-- Why a step has no meaning. -/
inductive Refusal where
  /-- Raised by `exec` for an instruction that has no meaning yet. No arm raises it. Safe. -/
  | notModelled (mnemonic : String)
  /-- Raised by the engine's step when BUSY = 1 and the latched word is no command. Acceptance latches only
  commands (40_bit_sequencer.md R153), so no run reaches such a state (`State.Inv`). Safe. -/
  | illegalCommandLatched
  deriving DecidableEq, Repr

/-- The position of a command's first primitive (10_state.md R60, 40_bit_sequencer.md R153). -/
def Upc.first : Upc := { block := .main, pos := 0 }

/-- The state right after reset (10_state.md R64, 70_reset_and_hazards.md R290, R291). The internal registers the
spec leaves unspecified hold 0 (log entry 1). -/
def State.reset : State where
  scl := .high
  sdaDir := .input
  sdaOut := .high
  phase := .idle
  initDone := false
  busy := false
  errIllegal := false
  errOverrun := false
  errNoinit := false
  errLen := false
  ackResult := .noWait
  pollCount := 0
  txnStatus := .noTxn
  txnIndex := 0
  rxdata := 0
  shift := 0
  acc := 0
  cmd := 0
  polls := 0
  idx := 0
  upc := Upc.first
  sampled := .low
  txbufSize := Config.txbufSize
  txbuf := []
  trace := []
  time := 0
  busErrors := []
  hostReads := []
  hostProg := []
  slave := []
  turns := []
  lead := none
  draws := 0

end Sys2Proof.Machine
end

