-- ==== Sys2Proof/Machine/Bits.lean ====
section
/-! DEFINITION. Bits, levels and encodings of small fields (00_scope.md R14, R15), and the little-endian byte order of
the host window (20_memory.md R93). -/

namespace Sys2Proof.Machine

/-- The level of a bit: 0 is LOW, 1 is HIGH (00_scope.md R15). -/
def levelOfBit (b : Bool) : Level := if b then .high else .low

/-- The bit of a level (00_scope.md R15). -/
def bitOfLevel : Level → Bool
  | .low => false
  | .high => true

/-- The bit `(v >> (7 - i)) & 1` of a byte: bit `i` on the bus, most significant first (20_memory.md R96). -/
def busBit (v : Byte) (i : Nat) : Level := levelOfBit (v.getLsbD (7 - i))

/-- `v[7-i] <- b` (43_receive.md R223). -/
def insertBusBit (v : Byte) (i : Nat) (b : Level) : Byte :=
  let bit : Byte := 1#8 <<< (7 - i)
  if bitOfLevel b then v ||| bit else v &&& ~~~bit

/-- One bit of a 32-bit register. -/
def bitAt (n : Nat) (b : Bool) : Word := if b then 1#32 <<< n else 0#32

/-- The encoding of the phase (10_state.md R40). -/
def phaseCode : Phase → BitVec 3
  | .idle => 0
  | .start => 1
  | .address => 2
  | .data => 3
  | .ackWait => 4
  | .stop => 5

/-- The encoding of ACK_RESULT (10_state.md R51). -/
def ackResultCode : AckResult → BitVec 2
  | .noWait => 0
  | .acked => 1
  | .timeout => 2

/-- The encoding of TXN_STATUS (10_state.md R53). -/
def txnStatusCode : TxnStatus → BitVec 2
  | .noTxn => 0
  | .ok => 1
  | .noAckAddress => 2
  | .noAckData => 3

/-- The number of bytes of an access (20_memory.md R81). -/
def sizeBytes : Size → Nat
  | .byte => 1
  | .half => 2
  | .word => 4

/-- Byte `k` of host data, little-endian (20_memory.md R93). -/
def dataByte (v : Word) (k : Nat) : Byte := v.extractLsb' (8 * k) 8

/-- Host data from its bytes, byte 0 first, zero-extended to 32 bits (20_memory.md R93). -/
def wordOfBytes : List Byte → Word
  | [] => 0#32
  | b :: bs => b.setWidth 32 ||| (wordOfBytes bs <<< 8)

end Sys2Proof.Machine
end

