-- ==== Sys2Proof/Machine/Memory.lean ====
section
/-! DEFINITION. TXBUF as a list of written bytes in one canonical form (20_memory.md R90, R94): indices strictly
rising, each below `TXBUF_SIZE`. An unlisted index is an unwritten byte: it has no value, so no listed value is
redundant. -/

namespace Sys2Proof.Machine

/-- The stored byte at index `i`; `none` where `s.txw[i] = 0` (20_memory.md R94). -/
def Memory.read : List Host.Cell → Nat → Option Byte
  | [], _ => none
  | (j, b) :: cs, i => if i = j then some b else if i < j then none else Memory.read cs i

/-- Store byte `b` at index `i` and set `s.txw[i]` (20_memory.md R92, R94). -/
def Memory.write : List Host.Cell → Nat → Byte → List Host.Cell
  | [], i, b => [(i, b)]
  | (j, c) :: cs, i, b =>
    if i = j then (i, b) :: cs
    else if i < j then (i, b) :: (j, c) :: cs
    else (j, c) :: Memory.write cs i b

/-- Store bytes at consecutive indices from `i` (20_memory.md R92). -/
def Memory.writeBytes : List Host.Cell → Nat → List Byte → List Host.Cell
  | m, _, [] => m
  | m, i, b :: bs => Memory.writeBytes (Memory.write m i b) (i + 1) bs

/-- The canonical form from index `lo` on: strictly rising, below `size`. -/
def Memory.wfFrom (size : Nat) : Nat → List Host.Cell → Bool
  | _, [] => true
  | lo, (j, _) :: cs => decide (lo ≤ j) && decide (j < size) && Memory.wfFrom size (j + 1) cs

/-- The canonical form of a TXBUF of `size` bytes. -/
def Memory.wf (size : Nat) (m : List Host.Cell) : Bool := Memory.wfFrom size 0 m

end Sys2Proof.Machine
end

