-- ==== Sys2Proof/Machine/Operands.lean ====
section
/-! DEFINITION. Operand assembly (30_encoding.md R113): the decoder reads the fields, and the address frame is
composed here. -/

namespace Sys2Proof.Machine

/-- `FRAME = ((zext_8(ADDR7) << 1) | zext_8(RW))[7:0] = {ADDR7, RW}` (30_encoding.md R113). -/
def addressFrame (addr : Addr7) (rw : Rw) : Byte :=
  (addr.setWidth 8 <<< 1) ||| rw.toBit.setWidth 8

/-- The payload length a command asks of TXBUF: LEN for WRITE_TXN (30_encoding.md R113), nothing otherwise. -/
def payloadLen : Instr → Nat
  | .writeTxn _ len => len.toNat
  | .init | .start | .stop | .sendAddr _ _ | .sendByte _ | .waitAck | .ack | .readByte => 0

end Sys2Proof.Machine
end

