-- ==== Sys2Proof/Machine/Flags.lean ====
section
/-! DEFINITION. The status bits and the values the registers read as (10_state.md R45 to R57, R63;
60_exceptions.md R262). -/

namespace Sys2Proof.Machine

/-- The four sticky error bits (60_exceptions.md R262). -/
inductive ErrBit where
  | illegal
  | overrun
  | noinit
  | len
  deriving DecidableEq, Repr

/-- An error bit after a step that clears and sets as told: cleared by a write of 1 (10_state.md R48), set by
`SetErr` (60_exceptions.md R262), and where both meet it ends set (10_state.md R49). -/
def errAfter (old clear set : Bool) : Bool := (old && !clear) || set

/-- `SetErr(e)` (60_exceptions.md R262): the one bit, nothing else. -/
def setErr (e : ErrBit) (s : State) : State :=
  { s with
    errIllegal := errAfter s.errIllegal false (e == .illegal)
    errOverrun := errAfter s.errOverrun false (e == .overrun)
    errNoinit := errAfter s.errNoinit false (e == .noinit)
    errLen := errAfter s.errLen false (e == .len) }

/-- A host write of STATUS: each error bit written as 1 is cleared, every other bit of the word is ignored
(10_state.md R46 to R48, 20_memory.md R86). -/
def clearErrs (w : Word) (s : State) : State :=
  { s with
    errIllegal := errAfter s.errIllegal (w.getLsbD 2) false
    errOverrun := errAfter s.errOverrun (w.getLsbD 3) false
    errNoinit := errAfter s.errNoinit (w.getLsbD 4) false
    errLen := errAfter s.errLen (w.getLsbD 5) false }

/-- STATUS as read (10_state.md R46): bits 7:6 and 31:11 read 0. -/
def statusWord (s : State) : Word :=
  bitAt 0 s.busy ||| bitAt 1 s.initDone ||| bitAt 2 s.errIllegal ||| bitAt 3 s.errOverrun
    ||| bitAt 4 s.errNoinit ||| bitAt 5 s.errLen ||| ((phaseCode s.phase).setWidth 32 <<< 8)

/-- RESULT as read (10_state.md R51 to R54): bits 3:2 and 7:6 read 0. -/
def resultWord (s : State) : Word :=
  (ackResultCode s.ackResult).setWidth 32 ||| ((txnStatusCode s.txnStatus).setWidth 32 <<< 4)
    ||| (s.pollCount.setWidth 32 <<< 8) ||| (s.txnIndex.setWidth 32 <<< 16)

/-- RXDATA as read (10_state.md R55): bits 31:8 read 0. -/
def rxdataWord (s : State) : Word := s.rxdata.setWidth 32

/-- LINES as read (10_state.md R56): SCL, the SDA latch, the SDA direction (1 = OUT); bits 31:3 read 0. -/
def linesWord (s : State) : Word :=
  bitAt 0 (bitOfLevel s.scl) ||| bitAt 1 (bitOfLevel s.sdaOut) ||| bitAt 2 (s.sdaDir == .output)

end Sys2Proof.Machine
end

