-- ==== Sys2Proof/Machine/Ops.lean ====
section
/-! DEFINITION. The shared operations of the engine: free draws, the five bit-level primitives (40_bit_sequencer.md
R141 to R148), the statements between them, one engine step over a command's pseudocode (R150, R154), and the reset
input (70_reset_and_hazards.md R290, R292). The block has no exception to take and none to return from
(60_exceptions.md R260, R266, R267). -/

namespace Sys2Proof.Machine

/-- The result of one step. -/
abbrev Result := Host.Outcome State Fault Refusal

/-- A free value has been drawn: the next one is a fresh one (log entry 6). -/
def State.drawn (s : State) : State := { s with draws := s.draws + 1 }

/-- Append one event to the trace (40_bit_sequencer.md R148). -/
def State.emit (e : Event) (s : State) : State := { s with trace := s.trace ++ [e] }

/-- Time passes: any duration of at least `bound` microseconds (40_bit_sequencer.md R145 to R147). -/
def State.elapse (bound : Rat) (s : State) : State :=
  { s with time := s.time + (bound + (Config.excess s.draws : Rat)) }

/-! ### Primitives -/

/-- The bit-level primitives (00_scope.md R17). `driveSdaBit i` is `Drive(SDA, s.shift[7-i])` of 42_transmit.md R192. -/
inductive Prim where
  | setDir (d : Dir)
  | driveScl (v : Level)
  | driveSda (v : Level)
  | driveSdaBit (i : Nat)
  | delay (t : Nat)
  | sample
  deriving DecidableEq, Repr

/-- `SetDir(SDA, d)` (40_bit_sequencer.md R142). -/
def setSdaDir (d : Dir) (s : State) : State := State.emit (.dir d) { s with sdaDir := d }

/-- `Drive(SCL, v)` (40_bit_sequencer.md R143). -/
def setScl (v : Level) (s : State) : State := State.emit (.scl v) { s with scl := v }

/-- `Drive(SDA, v)` (40_bit_sequencer.md R144): while SDA is an input the pin is not driven and the latch becomes a
free value. -/
def setSda (v : Level) (s : State) : State :=
  match s.sdaDir with
  | .output => State.emit (.sda v) { s with sdaOut := v }
  | .input => State.emit (.sdaIgnored v) (State.drawn { s with sdaOut := Config.drawLevel s.draws })

/-- `Delay(t)` (40_bit_sequencer.md R145). -/
def waitFor (t : Nat) (s : State) : State :=
  State.emit (.delay t) (State.drawn (State.elapse (t : Rat) s))

/-- The slave oracle's answer (40_bit_sequencer.md R146, R158): the next pending one, or a free one. -/
def slaveAnswer (s : State) : Level := s.slave.headD (Config.slaveAnswer s.draws)

/-- `b <- Sample(SDA)` (40_bit_sequencer.md R146). The level read stays in `sampled` for the statements that follow;
with SDA an output the slave is not asked and the level is a free value. -/
def sampleSda (s : State) : State :=
  let timed := State.drawn (State.elapse (Config.tPoll : Rat) s)
  match s.sdaDir with
  | .input =>
    State.emit (.sample (slaveAnswer s)) { timed with sampled := slaveAnswer s, slave := s.slave.tail }
  | .output =>
    State.emit (.sample (Config.drawLevel s.draws)) { timed with sampled := Config.drawLevel s.draws }

/-- A primitive's effect (40_bit_sequencer.md R141): it never fails and appends exactly one event. -/
def Prim.perform : Prim → State → State
  | .setDir d, s => setSdaDir d s
  | .driveScl v, s => setScl v s
  | .driveSda v, s => setSda v s
  | .driveSdaBit i, s => setSda (busBit s.shift i) s
  | .delay t, s => waitFor t s
  | .sample, s => sampleSda s

/-! ### Statements between primitives -/

/-- The non-primitive statements of the command rules: assignments to the phase, to internal registers and to
result registers (40_bit_sequencer.md R150). -/
inductive Stmt where
  /-- `s.phase <- p` -/
  | phase (p : Phase)
  /-- `s.init_done <- 1` (41_bus_conditions.md R171) -/
  | initDone
  /-- `s.shift <- v` (42_transmit.md R192) -/
  | loadShift (v : Byte)
  /-- `s.shift <- MemRead(TXBUF, s.idx, 1)` (44_transaction.md R240) -/
  | loadPayload
  /-- `s.polls <- 0` (42_transmit.md R197) -/
  | clearPolls
  /-- `s.polls <- s.polls + 1` (42_transmit.md R197) -/
  | countPoll
  /-- `s.acc <- 0x00` (43_receive.md R223) -/
  | clearAcc
  /-- `s.acc[7-i] <- b` (43_receive.md R223) -/
  | insertAcc (i : Nat)
  /-- `RXDATA <- zext_32(s.acc)` (43_receive.md R224) -/
  | storeRxdata
  /-- `RESULT.ACK_RESULT <- r; RESULT.POLL_COUNT <- s.polls` (42_transmit.md R197) -/
  | ackResult (r : AckResult)
  /-- `s.idx <- 0` (44_transaction.md R240) -/
  | clearIdx
  /-- `s.idx <- s.idx + 1` (44_transaction.md R240) -/
  | countIdx
  /-- `RESULT.TXN_STATUS <- t; RESULT.TXN_INDEX <- 0` (44_transaction.md R240) -/
  | txnStatus (t : TxnStatus)
  /-- `RESULT.TXN_STATUS <- NO_ACK_DATA; RESULT.TXN_INDEX <- s.idx` (44_transaction.md R240) -/
  | txnNoAckData
  deriving DecidableEq, Repr

/-- `MemRead(TXBUF, i, 1)` (20_memory.md R91, R94): the stored byte, or a free value where nothing was stored. -/
def txbufByte (s : State) (i : Nat) : Byte := (Memory.read s.txbuf i).getD (Config.drawByte s.draws)

/-- A statement's effect. -/
def Stmt.run : Stmt → State → State
  | .phase p, s => { s with phase := p }
  | .initDone, s => { s with initDone := true }
  | .loadShift v, s => { s with shift := v }
  | .loadPayload, s => State.drawn { s with shift := txbufByte s s.idx.toNat }
  | .clearPolls, s => { s with polls := 0#8 }
  | .countPoll, s => { s with polls := s.polls + 1#8 }
  | .clearAcc, s => { s with acc := 0#8 }
  | .insertAcc i, s => { s with acc := insertBusBit s.acc i s.sampled }
  | .storeRxdata, s => { s with rxdata := s.acc }
  | .ackResult r, s => { s with ackResult := r, pollCount := s.polls }
  | .clearIdx, s => { s with idx := 0#16 }
  | .countIdx, s => { s with idx := s.idx + 1#16 }
  | .txnStatus t, s => { s with txnStatus := t, txnIndex := 0#16 }
  | .txnNoAckData, s => { s with txnStatus := .noAckData, txnIndex := s.idx }

/-- Statements run strictly one after another (00_scope.md R18). -/
def runStmts (code : List Stmt) (s : State) : State := code.foldl (fun t c => c.run t) s

/-! ### One engine step -/

/-- One primitive of a command's pseudocode with the statements that stand between the previous primitive and it:
what one engine step performs (40_bit_sequencer.md R150). -/
structure MicroOp where
  before : List Stmt
  prim : Prim
  deriving DecidableEq, Repr

/-- Primitives with no statement between them. -/
def prims (ps : List Prim) : List MicroOp := ps.map fun p => { before := [], prim := p }

/-- Statements put in front of a piece of pseudocode: they run in the step of its first primitive. -/
def enter (code : List Stmt) : List MicroOp → List MicroOp
  | [] => []
  | op :: ops => { op with before := code ++ op.before } :: ops

/-- The statements, then the primitive. -/
def MicroOp.run (op : MicroOp) (s : State) : State := op.prim.perform (runStmts op.before s)

/-- The position moves on by one primitive (10_state.md R60). -/
def advance (s : State) : State := { s with upc := { s.upc with pos := s.upc.pos + 1 } }

/-- The position moves to the first primitive of another block. -/
def goto (b : Block) (s : State) : State := { s with upc := { block := b, pos := 0 } }

/-- Command completion (40_bit_sequencer.md R154): the statements after the last primitive, then `s.busy <- 0`. The spec
gives `s.shift`, `s.acc`, `s.cmd`, `s.polls`, `s.idx` and `s.upc` no meaning from here on (10_state.md R58 to R60); that
they keep their last values is the model's DESIGN CHOICE (log entry 18). -/
def complete (code : List Stmt) (s : State) : State := { runStmts code s with busy := false }

/-- One engine step of a command (40_bit_sequencer.md R150): `code` gives the pseudocode of each of its blocks, and
`last` what follows the last primitive of a block. -/
def runCode (code : Block → List MicroOp) (last : Block → State → State) (s : State) : Result :=
  match (code s.upc.block)[s.upc.pos]? with
  | none => .fault .sequencerLost
  | some op =>
    if s.upc.pos + 1 = (code s.upc.block).length then .next (last s.upc.block (op.run s))
    else .next (advance (op.run s))

/-- The blocks of a command whose pseudocode is one straight line. -/
def straight (ops : List MicroOp) : Block → List MicroOp
  | .main => ops
  | .poll _ | .acked _ | .timeout _ | .payload _ | .close _ => []

/-! ### Reset -/

/-- The reset input (70_reset_and_hazards.md R290, R292): every piece of the block's state takes its reset value, a
running command is abandoned, the trace is emptied and the time is 0. What lies outside the block stays: its
parameter TXBUF_SIZE, the host's program, reads and recorded bus errors, the slave's answers, the turns, and the
count of draws (log entry 8). No engine step is awaited any more, so `lead` is `none` (log entry 10). -/
def resetStep (s : State) : State :=
  { State.reset with
    txbufSize := s.txbufSize
    busErrors := s.busErrors
    hostReads := s.hostReads
    hostProg := s.hostProg
    slave := s.slave
    turns := s.turns
    draws := s.draws }

end Sys2Proof.Machine
end

