-- ==== Sys2Proof/Machine/Sequences.lean ====
section
/-! DEFINITION. The named sub-sequences of the command rules, run in place (40_bit_sequencer.md R155). -/

namespace Sys2Proof.Machine

/-- START_SEQ (41_bus_conditions.md R172). -/
def startSeq : List MicroOp := prims
  [.setDir .output, .driveScl .high, .driveSda .high, .delay Config.tLong, .driveSda .low, .driveScl .low]

/-- STOP_SEQ (41_bus_conditions.md R174), up to its last primitive; `stopSeqEnd` follows. -/
def stopSeq : List MicroOp := enter [.phase .stop] (prims
  [.setDir .output, .driveScl .low, .driveSda .low, .delay Config.tLong, .driveScl .high, .delay Config.tShort,
    .driveSda .high, .delay Config.tLong])

/-- The statement that ends STOP_SEQ (41_bus_conditions.md R174). -/
def stopSeqEnd : List Stmt := [.phase .idle]

/-- Bit `i` of SHIFT_OUT (42_transmit.md R192). -/
def shiftOutBit (i : Nat) : List Prim :=
  [.driveSdaBit i, .delay Config.tShort, .driveScl .high, .delay Config.tShort, .driveScl .low]

/-- SHIFT_OUT(v), where `load` puts `v` into `s.shift` (42_transmit.md R191, R192). -/
def shiftOut (load : Stmt) : List MicroOp :=
  enter [load] (prims ([.setDir .output] ++ (List.range 8).flatMap shiftOutBit ++ [.driveSda .high]))

/-- WAIT_SEQ to its first Sample (42_transmit.md R197). -/
def waitSeq : List MicroOp :=
  enter [.phase .ackWait] (prims
    [.driveScl .high, .delay Config.tShort, .driveSda .high, .delay Config.tShort, .setDir .input])
  ++ enter [.clearPolls] (prims [.sample])

/-- WAIT_SEQ, one more turn of its loop (42_transmit.md R197). -/
def waitSeqAgain : List MicroOp := enter [.countPoll] (prims [.sample])

/-- WAIT_SEQ after a LOW sample (42_transmit.md R197). -/
def waitSeqAcked : List MicroOp := enter [.countPoll] (prims [.driveScl .low])

/-- WAIT_SEQ after the last HIGH sample (42_transmit.md R197). -/
def waitSeqTimeout : List MicroOp := enter [.countPoll] stopSeq

/-- The tests of WAIT_SEQ's loop after a Sample (42_transmit.md R197, R200): ACKED on LOW, TIMEOUT once
`ACK_POLL_LIMIT` samples were HIGH, else one more sample. The sample just taken is not yet in `s.polls`. -/
def afterSample (f : Frame) (s : State) : State :=
  match s.sampled with
  | .low => goto (.acked f) s
  | .high => if s.polls.toNat + 1 = Config.ackPollLimit then goto (.timeout f) s else goto (.poll f) s

/-- ACK_SEQ (43_receive.md R221). -/
def ackSeq : List MicroOp := prims
  [.driveScl .low, .setDir .output, .driveSda .low, .delay Config.tShort, .driveScl .high, .delay Config.tShort,
    .driveScl .low]

/-- Bit `i` of READ_SEQ, after the statement `before` (43_receive.md R223). -/
def readSeqBit (before : Stmt) : List MicroOp := enter [before] (prims
  [.driveScl .low, .delay Config.tShort, .driveScl .high, .delay Config.tShort, .sample])

/-- READ_SEQ up to its last Sample (43_receive.md R223); `.insertAcc 7` follows. -/
def readSeq : List MicroOp :=
  prims [.setDir .input] ++ readSeqBit .clearAcc ++ (List.range 7).flatMap fun i => readSeqBit (.insertAcc i)

end Sys2Proof.Machine
end

