-- ==== Sys2Proof/Machine/Bus.lean ====
section
/-! DEFINITION. Bus conditions: INIT, START, STOP (41_bus_conditions.md). -/

namespace Sys2Proof.Machine

/-- INIT's pseudocode (41_bus_conditions.md R171). -/
def initCode : List MicroOp := enter [.phase .idle] (prims [.setDir .output, .driveScl .low, .driveSda .low])

/-- INIT (41_bus_conditions.md R171): one engine step. -/
def execInit (s : State) : Result := runCode (straight initCode) (fun _ => complete [.initDone]) s

/-- START's pseudocode (41_bus_conditions.md R173). -/
def startCode : List MicroOp := enter [.phase .start] startSeq

/-- START (41_bus_conditions.md R173): one engine step. -/
def execStart (s : State) : Result := runCode (straight startCode) (fun _ => complete []) s

/-- STOP (41_bus_conditions.md R175): one engine step. -/
def execStop (s : State) : Result := runCode (straight stopSeq) (fun _ => complete stopSeqEnd) s

end Sys2Proof.Machine
end

