-- ==== Sys2Proof/Machine/Receive.lean ====
section
/-! DEFINITION. The receive path: ACK, READ_BYTE (43_receive.md). -/

namespace Sys2Proof.Machine

/-- ACK's pseudocode (43_receive.md R222). -/
def ackCode : List MicroOp := enter [.phase .data] ackSeq

/-- ACK (43_receive.md R222): one engine step. -/
def execAck (s : State) : Result := runCode (straight ackCode) (fun _ => complete []) s

/-- READ_BYTE's pseudocode (43_receive.md R223, R224). -/
def readByteCode : List MicroOp := enter [.phase .data] readSeq ++ enter [.insertAcc 7] ackSeq

/-- READ_BYTE (43_receive.md R224): one engine step. -/
def execReadByte (s : State) : Result := runCode (straight readByteCode) (fun _ => complete [.storeRxdata]) s

end Sys2Proof.Machine
end

