-- ==== Sys2Proof/Machine/Transaction.lean ====
section
/-! DEFINITION. The write transaction: WRITE_TXN (44_transaction.md). -/

namespace Sys2Proof.Machine

/-- The assignment to `s.idx` once frame `f` is acknowledged (44_transaction.md R240): 0 after the address, one more
after a payload byte. -/
def idxStmt : Frame → Stmt
  | .address => .clearIdx
  | .payload => .countIdx

/-- The index of the payload byte after frame `f`, before `idxStmt` has run. -/
def nextIdx (s : State) : Frame → Nat
  | .address => 0
  | .payload => s.idx.toNat + 1

/-- WRITE_TXN's pseudocode by block (44_transaction.md R240, R241). -/
def writeTxnCode (addr : Addr7) : Block → List MicroOp
  | .main =>
    enter [.phase .start] startSeq
      ++ enter [.phase .address] (shiftOut (.loadShift (addressFrame addr .write)))
      ++ waitSeq
  | .poll _ => waitSeqAgain
  | .acked _ => waitSeqAcked
  | .timeout _ => waitSeqTimeout
  | .payload f => enter [.ackResult .acked, idxStmt f, .phase .data] (shiftOut .loadPayload) ++ waitSeq
  | .close f => enter [.ackResult .acked, idxStmt f] stopSeq

/-- `while s.idx < LEN` once frame `f` is acknowledged (44_transaction.md R240). -/
def nextFrame (len : Len) (f : Frame) (s : State) : State :=
  if nextIdx s f < len.toNat then goto (.payload f) s else goto (.close f) s

/-- The result a TIMEOUT on frame `f` reports (44_transaction.md R240). -/
def noAck : Frame → Stmt
  | .address => .txnStatus .noAckAddress
  | .payload => .txnNoAckData

/-- What follows each block of WRITE_TXN (44_transaction.md R240, R242). -/
def writeTxnLast (len : Len) : Block → State → State
  | .main => afterSample .address
  | .poll f => afterSample f
  | .acked f => nextFrame len f
  | .timeout f => complete (stopSeqEnd ++ [.ackResult .timeout, noAck f])
  | .payload _ => afterSample .payload
  | .close _ => complete (stopSeqEnd ++ [.txnStatus .ok])

/-- WRITE_TXN (44_transaction.md R240): one engine step. -/
def execWriteTxn (addr : Addr7) (len : Len) (s : State) : Result :=
  runCode (writeTxnCode addr) (writeTxnLast len) s

end Sys2Proof.Machine
end

