-- ==== Sys2Proof/Machine/Transmit.lean ====
section
/-! DEFINITION. Transmit and acknowledgment: SEND_ADDR, SEND_BYTE, WAIT_ACK (42_transmit.md). -/

namespace Sys2Proof.Machine

/-- SEND_ADDR's pseudocode (42_transmit.md R193). -/
def sendAddrCode (addr : Addr7) (rw : Rw) : List MicroOp :=
  enter [.phase .address] (shiftOut (.loadShift (addressFrame addr rw)))

/-- SEND_ADDR (42_transmit.md R193): one engine step. -/
def execSendAddr (addr : Addr7) (rw : Rw) (s : State) : Result :=
  runCode (straight (sendAddrCode addr rw)) (fun _ => complete []) s

/-- SEND_BYTE's pseudocode (42_transmit.md R194). -/
def sendByteCode (data : Byte) : List MicroOp := enter [.phase .data] (shiftOut (.loadShift data))

/-- SEND_BYTE (42_transmit.md R194): one engine step. -/
def execSendByte (data : Byte) (s : State) : Result :=
  runCode (straight (sendByteCode data)) (fun _ => complete []) s

/-- WAIT_ACK's pseudocode by block (42_transmit.md R197, R198). -/
def waitAckCode : Block → List MicroOp
  | .main => waitSeq
  | .poll .address => waitSeqAgain
  | .acked .address => waitSeqAcked
  | .timeout .address => waitSeqTimeout
  | .poll .payload | .acked .payload | .timeout .payload | .payload _ | .close _ => []

/-- What follows each block of WAIT_ACK (42_transmit.md R197, R198). -/
def waitAckLast : Block → State → State
  | .main | .poll _ => afterSample .address
  | .acked _ => complete [.ackResult .acked]
  | .timeout _ => complete (stopSeqEnd ++ [.ackResult .timeout])
  | .payload _ | .close _ => complete []

/-- WAIT_ACK (42_transmit.md R198): one engine step. -/
def execWaitAck (s : State) : Result := runCode waitAckCode waitAckLast s

end Sys2Proof.Machine
end

