-- ==== Sys2Proof/Machine/Dispatch.lean ====
section
/-! DEFINITION. The meaning of each command: one engine step of it (40_bit_sequencer.md R150). -/

namespace Sys2Proof.Machine

def exec (i : Instr) (s : State) : Host.Outcome State Fault Refusal :=
  match i with
  | .init => Sys2Proof.Machine.execInit s
  | .start => Sys2Proof.Machine.execStart s
  | .stop => Sys2Proof.Machine.execStop s
  | .sendAddr addr rw => Sys2Proof.Machine.execSendAddr addr rw s
  | .sendByte data => Sys2Proof.Machine.execSendByte data s
  | .waitAck => Sys2Proof.Machine.execWaitAck s
  | .ack => Sys2Proof.Machine.execAck s
  | .readByte => Sys2Proof.Machine.execReadByte s
  | .writeTxn addr len => Sys2Proof.Machine.execWriteTxn addr len s

end Sys2Proof.Machine
end

