-- ==== Sys2Proof/Machine/HostPort.lean ====
section
/-! DEFINITION. The host's side: the host window (20_memory.md R80 to R95), command acceptance
(40_bit_sequencer.md R153) and one host step (R151). -/

namespace Sys2Proof.Machine

/-- The host-visible registers (20_memory.md R81). -/
inductive Reg where
  | cmd
  | status
  | result
  | rxdata
  | lines
  deriving DecidableEq, Repr

/-- What an access reaches. -/
inductive Target where
  /-- A register. -/
  | reg (r : Reg)
  /-- TXBUF from byte `i` on. -/
  | txbuf (i : Nat)
  /-- Nothing: an error response (20_memory.md R84). -/
  | error
  deriving DecidableEq, Repr

/-- The register at a byte offset (20_memory.md R81). -/
def regAt : Nat → Option Reg
  | 0x000 => some .cmd
  | 0x004 => some .status
  | 0x008 => some .result
  | 0x00C => some .rxdata
  | 0x010 => some .lines
  | _ => none

/-- Where TXBUF begins in the host window (20_memory.md R90). -/
def txbufBase : Nat := 0x100

/-- The map of the host window for a TXBUF of `txbufSize` bytes (20_memory.md R81 to R83, R95). -/
def target (txbufSize : Nat) (off : Offset) (size : Size) : Target :=
  let a := off.toNat
  let n := sizeBytes size
  if txbufBase ≤ a ∧ a + n ≤ txbufBase + txbufSize ∧ a % n = 0 then .txbuf (a - txbufBase)
  else match size with
    | .word => match regAt a with
      | some r => .reg r
      | none => .error
    | .byte | .half => .error

/-- The value a register reads as (10_state.md R45, R46, R51 to R56). -/
def readReg (s : State) : Reg → Word
  | .cmd => 0#32
  | .status => statusWord s
  | .result => resultWord s
  | .rxdata => rxdataWord s
  | .lines => linesWord s

/-- Read `n` TXBUF bytes from index `i`; each unwritten byte is a fresh draw (20_memory.md R91, R94). -/
def readTxbuf : Nat → Nat → State → List Byte × State
  | 0, _, s => ([], s)
  | n + 1, i, s =>
    let rest := readTxbuf n (i + 1) (State.drawn s)
    (txbufByte s i :: rest.1, rest.2)

/-- Record a `HostBusError` and change nothing else (20_memory.md R84). -/
def busError (off : Offset) (size : Size) (s : State) : State :=
  { s with busErrors := s.busErrors ++ [{ off := off, size := size }] }

/-- The data of a host read and the state after it (20_memory.md R84, R85): no side effect but the draws of
unwritten bytes and the record of a bus error. -/
def readData (off : Offset) (size : Size) (s : State) : Word × State :=
  match target s.txbufSize off size with
  | .reg r => (readReg s r, s)
  | .txbuf i => (wordOfBytes (readTxbuf (sizeBytes size) i s).1, (readTxbuf (sizeBytes size) i s).2)
  | .error => (0#32, busError off size s)

/-- A host read, with the data it returned kept (log entry 8). -/
def hostRead (off : Offset) (size : Size) (s : State) : State :=
  let r := readData off size s
  { r.2 with hostReads := r.2.hostReads ++ [{ off := off, size := size, data := r.1 }] }

/-- Why an idle block refuses a decoded command, in the order of the tests (40_bit_sequencer.md R153,
60_exceptions.md R265). -/
def refusalOf (i : Instr) (s : State) : Option ErrBit :=
  if s.initDone = false ∧ i ≠ .init then some .noinit
  else if s.txbufSize < payloadLen i then some .len
  else none

/-- Latch an accepted word and start it (40_bit_sequencer.md R153). -/
def accept (w : Word) (s : State) : State := { s with cmd := w, busy := true, upc := Upc.first }

/-- A host write of word `w` to CMD (40_bit_sequencer.md R153). -/
def offer (w : Word) (s : State) : State :=
  if s.busy then setErr .overrun s
  else match decode w with
    | .error _ => setErr .illegal s
    | .ok i => match refusalOf i s with
      | some e => setErr e s
      | none => accept w s

/-- A host write of a register (20_memory.md R86). -/
def writeReg (r : Reg) (w : Word) (s : State) : State :=
  match r with
  | .cmd => offer w s
  | .status => clearErrs w s
  | .result | .rxdata | .lines => s

/-- A host write of TXBUF, `n` bytes of `w` from index `i` (20_memory.md R92, R93): dropped with ERR_OVERRUN while a
command runs. -/
def writeTxbuf (i n : Nat) (w : Word) (s : State) : State :=
  if s.busy then setErr .overrun s
  else { s with txbuf := Memory.writeBytes s.txbuf i ((List.range n).map (dataByte w)) }

/-- A host write. -/
def hostWrite (off : Offset) (size : Size) (w : Word) (s : State) : State :=
  match target s.txbufSize off size with
  | .reg r => writeReg r w s
  | .txbuf i => writeTxbuf i (sizeBytes size) w s
  | .error => busError off size s

/-- The host's program without the operation it is at. -/
def hostAdvance (s : State) : State := { s with hostProg := s.hostProg.tail }

/-- One access of the host's program (40_bit_sequencer.md R151). `POLL` reads a 32-bit register once a step and is
done once `(read & mask) = value` (30_encoding.md R119). -/
def hostOp : HostOp → State → State
  | .write off size w, s => hostAdvance (hostWrite off size w s)
  | .read off size, s => hostAdvance (hostRead off size s)
  | .poll off mask value, s =>
    if (readData off .word s).1 &&& mask = value then hostAdvance (hostRead off .word s) else hostRead off .word s

/-- One host step: the next operation of the host's program, or nothing where it has none. -/
def hostStep (s : State) : State :=
  match s.hostProg with
  | [] => s
  | op :: _ => hostOp op s

end Sys2Proof.Machine
end

