-- ==== Sys2Proof/Machine/Schedule.lean ====
section
/-! DEFINITION. The engine's step, and whose step it is where the turns do not say: every interleaving of host and engine
steps in which the engine is weakly fair (40_bit_sequencer.md R150 to R152). -/

namespace Sys2Proof.Machine

/-- The engine's step (40_bit_sequencer.md R150): enabled exactly when BUSY = 1, it performs the next primitive of the
command in `s.cmd`. -/
def engineStep (s : State) : Host.Outcome State Fault Refusal :=
  if s.busy then
    match decode s.cmd with
    | .ok i => exec i s
    | .error _ => .refused .illegalCommandLatched
  else .next s

/-- The number of host steps before the engine's next step is drawn, where it is not yet (log entry 10). -/
def drawLead (s : State) : State :=
  match s.lead with
  | some _ => s
  | none => State.drawn { s with lead := some (Config.hostLead s.draws) }

/-- Both agents have something to do: a host step while some are left before the engine's next one, else that one
(40_bit_sequencer.md R152). Each number is free and finite: every interleaving can come about, and in every run the
engine steps again. -/
def contend (s : State) : Host.Outcome State Fault Refusal :=
  match s.lead with
  | some (k + 1) => .next (hostStep { s with lead := some k })
  | some 0 | none => engineStep { s with lead := none }

/-- A step where the turns do not say whose it is (40_bit_sequencer.md R152): the one agent that has something to do;
where both have, a fair free choice; where neither has, nothing happens. -/
def freeStep (s : State) : Host.Outcome State Fault Refusal :=
  if s.busy = false then .next (hostStep s)
  else if s.hostProg = [] then engineStep s
  else contend (drawLead s)

end Sys2Proof.Machine
end

