-- ==== Sys2Proof/Machine/Step.lean ====
section
/-! DEFINITION. One step of the machine: an engine step, a host step or the reset input (40_bit_sequencer.md R140,
R150 to R152). -/

namespace Sys2Proof.Machine

/-- One step of the machine. -/
def step (s : State) : Host.Outcome State Fault Refusal :=
  match s.turns with
  | [] => freeStep s
  | .engine :: rest => engineStep { s with turns := rest }
  | .host :: rest => .next (hostStep { s with turns := rest })
  | .reset :: rest => .next (resetStep { s with turns := rest })

/-- `s`, with the engine's turn next where another agent could move. -/
def State.withEngineNext (s : State) : State :=
  if s.turns = [] ∧ s.hostProg = [] then s else { s with turns := .engine :: s.turns }

/-- `s` with the command word `w` accepted (its bits from `nbits` up being 0) and the engine's turn next: the next
step performs the command's first primitive (10_state.md R59, R60; log entry 11). -/
def State.withFetchWord (s : State) (nbits w : Nat) : State :=
  State.withEngineNext (accept (BitVec.ofNat 32 (w % 2 ^ nbits)) s)

end Sys2Proof.Machine
end

