-- ==== Sys2Proof/Machine/Assembler.lean ====
section
/-! DEFINITION. The assembly syntax of commands and host operations and the pseudo-instructions (30_encoding.md R119,
R120): how a host program comes to be the list of accesses the host performs. -/

namespace Sys2Proof.Machine

/-- A command as written, its numbers not yet checked (30_encoding.md R119). -/
inductive Asm where
  | init
  | start
  | stop
  | sendAddr (addr : Nat) (rw : Rw)
  | sendByte (byte : Nat)
  | waitAck
  | ack
  | readByte
  | writeTxn (addr len : Nat)
  deriving DecidableEq, Repr

/-- The command, or a refusal of an address above 127, a byte above 255, a length above 65535 (30_encoding.md R119). -/
def assemble : Asm → Option Instr
  | .init => some .init
  | .start => some .start
  | .stop => some .stop
  | .sendAddr a rw => if a ≤ 127 then some (.sendAddr (BitVec.ofNat 7 a) rw) else none
  | .sendByte b => if b ≤ 255 then some (.sendByte (BitVec.ofNat 8 b)) else none
  | .waitAck => some .waitAck
  | .ack => some .ack
  | .readByte => some .readByte
  | .writeTxn a n =>
    if a ≤ 127 ∧ n ≤ 65535 then some (.writeTxn (BitVec.ofNat 7 a) (BitVec.ofNat 16 n)) else none

/-! ### Pseudo-instructions -/

/-- `WAIT_IDLE` (30_encoding.md R120). -/
def waitIdle : List HostOp := [.poll 0x004#12 0x1#32 0x0#32]

/-- `ISSUE c` (30_encoding.md R120). -/
def issue (c : Instr) : List HostOp := .write 0x000#12 .word (encode c) :: waitIdle

/-- The byte writes of a payload from index `i` on (30_encoding.md R120). -/
def writePayload : Nat → List Byte → List HostOp
  | _, [] => []
  | i, b :: bs => .write (BitVec.ofNat 12 (txbufBase + i)) .byte (b.setWidth 32) :: writePayload (i + 1) bs

/-- `WRITE a, [b0, ..., b(L-1)]` (30_encoding.md R120). -/
def writeBuffer (a : Addr7) (bytes : List Byte) : List HostOp :=
  writePayload 0 bytes ++ issue (.writeTxn a (BitVec.ofNat 16 bytes.length))

/-- `READ_SEQ a, n` (30_encoding.md R120), for a slave that acknowledges: a host that reads TIMEOUT in RESULT after
the WAIT_ACK leaves out what follows it. -/
def readSequence (a : Addr7) (n : Nat) : List HostOp :=
  issue .start ++ issue (.sendAddr a .read) ++ issue .waitAck ++ [.read 0x008#12 .word]
    ++ (List.replicate n (issue .readByte ++ [.read 0x00C#12 .word])).flatten ++ issue .stop

/-! ### Text -/

/-- Cut a line at blanks; a comma is a token of its own. `cur` is the token being read, last character first. -/
def tokensFrom : List Char → List Char → List (List Char)
  | cur, [] => if cur = [] then [] else [cur.reverse]
  | cur, c :: cs =>
    if c = ' ' then (if cur = [] then tokensFrom [] cs else cur.reverse :: tokensFrom [] cs)
    else if c = ',' then
      (if cur = [] then [','] :: tokensFrom [] cs else cur.reverse :: [','] :: tokensFrom [] cs)
    else tokensFrom (c :: cur) cs

/-- The tokens of a line. -/
def tokens (line : String) : List (List Char) := tokensFrom [] line.toList

/-- The value of a digit. -/
def digitValue (c : Char) : Option Nat :=
  let n := c.toNat
  if 48 ≤ n ∧ n ≤ 57 then some (n - 48)
  else if 97 ≤ n ∧ n ≤ 102 then some (n - 87)
  else if 65 ≤ n ∧ n ≤ 70 then some (n - 55)
  else none

/-- A number in a base, `acc` being the digits read so far. -/
def digitsFrom (base : Nat) : Nat → List Char → Option Nat
  | acc, [] => some acc
  | acc, c :: cs =>
    match digitValue c with
    | some d => if d < base then digitsFrom base (acc * base + d) cs else none
    | none => none

/-- A decimal or `0x` hexadecimal number (30_encoding.md R119). -/
def parseNumber : List Char → Option Nat
  | [] => none
  | '0' :: 'x' :: c :: cs => digitsFrom 16 0 (c :: cs)
  | c :: cs => digitsFrom 10 0 (c :: cs)

/-- `W` or `R` (30_encoding.md R119). -/
def parseRw (t : List Char) : Option Rw :=
  if t = "W".toList then some .write else if t = "R".toList then some .read else none

/-- A command without operands. -/
def parsePlain (t : List Char) : Option Asm :=
  if t = "INIT".toList then some .init
  else if t = "START".toList then some .start
  else if t = "STOP".toList then some .stop
  else if t = "WAIT_ACK".toList then some .waitAck
  else if t = "ACK".toList then some .ack
  else if t = "READ_BYTE".toList then some .readByte
  else none

/-- A command with one operand; `SEND_ADDR.W` and `SEND_ADDR.R` are pseudo-instructions (30_encoding.md R120). -/
def parseOne (t x : List Char) : Option Asm :=
  (parseNumber x).bind fun n =>
    if t = "SEND_BYTE".toList then some (.sendByte n)
    else if t = "SEND_ADDR.W".toList then some (.sendAddr n .write)
    else if t = "SEND_ADDR.R".toList then some (.sendAddr n .read)
    else none

/-- A command with two operands. -/
def parseTwo (t x y : List Char) : Option Asm :=
  (parseNumber x).bind fun n =>
    if t = "SEND_ADDR".toList then (parseRw y).map (.sendAddr n)
    else if t = "WRITE_TXN".toList then (parseNumber y).map (.writeTxn n)
    else none

/-- A command's tokens (30_encoding.md R119). -/
def parseAsm : List (List Char) → Option Asm
  | [t] => parsePlain t
  | [t, x] => parseOne t x
  | [t, x, [','], y] => parseTwo t x y
  | _ => none

/-- An offset of the host window (30_encoding.md R119, 00_scope.md R13). -/
def parseOffset (t : List Char) : Option Offset :=
  (parseNumber t).bind fun n => if n < 4096 then some (BitVec.ofNat 12 n) else none

/-- A 32-bit value. -/
def parseWord (t : List Char) : Option Word :=
  (parseNumber t).bind fun n => if n < 2 ^ 32 then some (BitVec.ofNat 32 n) else none

/-- The width of a host operation: 32 bits unless `.b` or `.h` stands after its name (30_encoding.md R119). -/
def parseSized (name : String) (t : List Char) : Option Size :=
  if t = name.toList then some .word
  else if t = name.toList ++ ".h".toList then some .half
  else if t = name.toList ++ ".b".toList then some .byte
  else none

/-- A host operation's tokens (30_encoding.md R119). The spec does not say what becomes of a `WR.b` or `WR.h` value wider
than the access: that it is accepted below 2^32 and its low bytes are written is the model's DESIGN CHOICE (log entry
19), and so is that `POLL` takes no size suffix. -/
def parseHostOp : List (List Char) → Option HostOp
  | [t, x] =>
    (parseSized "RD" t).bind fun size => (parseOffset x).map fun off => .read off size
  | [t, x, [','], y] =>
    (parseSized "WR" t).bind fun size => (parseOffset x).bind fun off => (parseWord y).map fun v => .write off size v
  | [t, x, [','], y, [','], z] =>
    if t = "POLL".toList then
      (parseOffset x).bind fun off => (parseWord y).bind fun m => (parseWord z).map fun v => .poll off m v
    else none
  | _ => none

/-- A list of bytes `b0, b1, ...`, the brackets taken off (30_encoding.md R120). That the list may be empty and that a
trailing comma is refused is the model's DESIGN CHOICE (log entry 19). -/
def parseBytes : List (List Char) → Option (List Byte)
  | [] => some []
  | [x] => (parseNumber x).bind fun n => if n ≤ 255 then some [BitVec.ofNat 8 n] else none
  | x :: [','] :: y :: rest =>
    (parseNumber x).bind fun n =>
      if n ≤ 255 then (parseBytes (y :: rest)).map fun bs => BitVec.ofNat 8 n :: bs else none
  | _ => none

/-- An address. -/
def parseAddr (t : List Char) : Option Addr7 :=
  (parseNumber t).bind fun n => if n ≤ 127 then some (BitVec.ofNat 7 n) else none

/-- The brackets of a byte list as tokens of their own: each becomes a blank-separated token. -/
def spaceBrackets (cs : List Char) : List Char :=
  cs.flatMap fun c => if c = '[' ∨ c = ']' then [' ', c, ' '] else [c]

/-- The lines that stand for several accesses (30_encoding.md R120). -/
def parsePseudo : List (List Char) → Option (List HostOp)
  | t :: rest =>
    if t = "WAIT_IDLE".toList then (if rest = [] then some waitIdle else none)
    else if t = "ISSUE".toList then ((parseAsm rest).bind assemble).map issue
    else if t = "WRITE".toList then
      match rest with
      | a :: [','] :: ['['] :: body =>
        if body.getLast? = some [']'] then
          (parseAddr a).bind fun a => (parseBytes body.dropLast).bind fun bs =>
            if bs.length ≤ Config.txbufSizeMax then some (writeBuffer a bs) else none
        else none
      | _ => none
    else if t = "READ_SEQ".toList then
      match rest with
      | [a, [','], n] => (parseAddr a).bind fun a => (parseNumber n).map fun n => readSequence a n
      | _ => none
    else ((parseAsm (t :: rest)).bind assemble).map issue
  | [] => some []

/-- One line of a host program as the accesses it stands for (30_encoding.md R119, R120): a host operation, a
pseudo-instruction, or a command, which is issued. -/
def assembleLine (line : String) : Option (List HostOp) :=
  let ts := tokensFrom [] (spaceBrackets line.toList)
  match parseHostOp ts with
  | some op => some [op]
  | none => parsePseudo ts

/-- A host program. -/
def assembleProgram : List String → Option (List HostOp)
  | [] => some []
  | l :: ls => (assembleLine l).bind fun ops => (assembleProgram ls).map fun rest => ops ++ rest

end Sys2Proof.Machine
end

