-- ==== Sys2Proof/Machine/Conditions.lean ====
section
/-! DEFINITION. What is read off the states and the trace of a run (10_state.md R35, 40_bit_sequencer.md R149,
41_bus_conditions.md R170): it is no state of the block. -/

namespace Sys2Proof.Machine

/-- The master's contribution to SDA; `none` is `REL` (10_state.md R35). -/
def sdaMaster (s : State) : Option Level :=
  match s.sdaDir with
  | .output => some s.sdaOut
  | .input => none

/-- `L(s)`: the master's SDA level with `REL` counted as HIGH (40_bit_sequencer.md R149). -/
def sdaLevel (s : State) : Level := (sdaMaster s).getD .high

/-- The bus is idle (41_bus_conditions.md R170). -/
def busIdle (s : State) : Bool := s.scl == .high && sdaLevel s == .high

/-- A start condition between the states before and after one event (40_bit_sequencer.md R149). -/
def startCondition (s t : State) : Bool :=
  s.scl == .high && t.scl == .high && sdaLevel s == .high && sdaLevel t == .low

/-- A stop condition between the states before and after one event (40_bit_sequencer.md R149). -/
def stopCondition (s t : State) : Bool :=
  s.scl == .high && t.scl == .high && sdaLevel s == .low && sdaLevel t == .high

/-- One event on the wire: what was performed, the SCL level before it and `L` after it. -/
structure WireEvent where
  event : Event
  sclBefore : Level
  line : Level
  deriving DecidableEq, Repr

/-- The event between two states of a run. -/
def wireEvent (s t : State) : Option WireEvent :=
  t.trace.getLast?.map fun e => { event := e, sclBefore := s.scl, line := sdaLevel t }

/-- The wire events along a run, given by its states in order, one event between two of them. -/
def wireEvents : List State → List WireEvent
  | s :: t :: rest => (wireEvent s t).toList ++ wireEvents (t :: rest)
  | [_] => []
  | [] => []

/-- The positions, from `n` on, of the events between consecutive states that satisfy `cond`. -/
def conditionsFrom (cond : State → State → Bool) : Nat → List State → List Nat
  | n, s :: t :: rest => (if cond s t then [n] else []) ++ conditionsFrom cond (n + 1) (t :: rest)
  | _, [_] => []
  | _, [] => []

/-- A clock pulse: its bus bit, and whether that bit was held steady (40_bit_sequencer.md R149). -/
structure Pulse where
  bit : Level
  steady : Bool
  deriving DecidableEq, Repr

/-- The clock pulses of a run of wire events; `cur` is the pulse that is open, if any (40_bit_sequencer.md R149). -/
def pulsesFrom : Option Pulse → List WireEvent → List Pulse
  | _, [] => []
  | cur, e :: es =>
    match e.event with
    | .scl .high =>
      if e.sclBefore = .low then pulsesFrom (some { bit := e.line, steady := true }) es else pulsesFrom cur es
    | .scl .low => if e.sclBefore = .high then cur.toList ++ pulsesFrom none es else pulsesFrom cur es
    | .dir _ | .sda _ | .sdaIgnored _ => pulsesFrom (cur.map fun p => { p with steady := false }) es
    | .delay _ | .sample _ => pulsesFrom cur es

/-- The clock pulses along a run, given by its states in order. -/
def clockPulses (states : List State) : List Pulse := pulsesFrom none (wireEvents states)

/-- The lower bound an event puts on elapsed time, microseconds (40_bit_sequencer.md R147). -/
def eventBound : Event → Nat
  | .delay t => t
  | .dir _ | .scl _ | .sda _ | .sdaIgnored _ | .sample _ => 0

/-- The sum of the `Delay` bounds of a trace (40_bit_sequencer.md R147). -/
def traceBound (trace : List Event) : Nat := (trace.map eventBound).sum

end Sys2Proof.Machine
end

