-- ==== Sys2Proof/Machine/Run.lean ====
section
/-! DEFINITION. A command run by the engine alone: engine steps of one command with no host step between them. -/

namespace Sys2Proof.Machine

/-- `n` engine steps of command `i`. -/
def execN (i : Instr) : Nat → State → Host.Outcome State Fault Refusal
  | 0, s => .next s
  | n + 1, s =>
    match exec i s with
    | .next t => execN i n t
    | .fault f => .fault f
    | .refused r => .refused r

/-- The states of `n` engine steps of command `i`, the first state included. -/
def execStates (i : Instr) : Nat → State → List State
  | 0, s => [s]
  | n + 1, s =>
    match exec i s with
    | .next t => s :: execStates i n t
    | .fault _ | .refused _ => [s]

/-- The pseudocode of a command by block. -/
def commandCode : Instr → Block → List MicroOp
  | .init => straight initCode
  | .start => straight startCode
  | .stop => straight stopSeq
  | .sendAddr a rw => straight (sendAddrCode a rw)
  | .sendByte d => straight (sendByteCode d)
  | .waitAck => waitAckCode
  | .ack => straight ackCode
  | .readByte => straight readByteCode
  | .writeTxn a _ => writeTxnCode a

/-- What follows the last primitive of each block of a command. -/
def commandLast : Instr → Block → State → State
  | .init => fun _ => complete [.initDone]
  | .start => fun _ => complete []
  | .stop => fun _ => complete stopSeqEnd
  | .sendAddr _ _ => fun _ => complete []
  | .sendByte _ => fun _ => complete []
  | .waitAck => waitAckLast
  | .ack => fun _ => complete []
  | .readByte => fun _ => complete [.storeRxdata]
  | .writeTxn _ len => writeTxnLast len

/-- The position names a primitive of the command (10_state.md R60). -/
def atPrimitive (i : Instr) (u : Upc) : Bool := decide (u.pos < (commandCode i u.block).length)

end Sys2Proof.Machine
end

