-- ==== Sys2Proof/Safety.lean ====
section
/-! DEFINITION. What a sound state is, and what a run that respects the host's duties has not seen, in the terms claims
use. -/

namespace Sys2Proof.Machine

/-- `1 <= TXBUF_SIZE <= 3840` (00_scope.md R11). -/
def State.SizeOk (s : State) : Prop := 1 ≤ s.txbufSize ∧ s.txbufSize ≤ Config.txbufSizeMax

/-- TXBUF is in its canonical form (20_memory.md R90, R94). -/
def State.MemoryOk (s : State) : Prop := Memory.wf s.txbufSize s.txbuf = true

/-- Acceptance let the command through: INIT came first, and its payload fits TXBUF (40_bit_sequencer.md R153). -/
def Admitted (i : Instr) (s : State) : Prop := (s.initDone = true ∨ i = .init) ∧ payloadLen i ≤ s.txbufSize

/-- While BUSY = 1, the latched word is an admitted command and `s.upc` one of its primitives (10_state.md R59, R60). -/
def State.SequencerOk (s : State) : Prop :=
  s.busy = true → ∃ i, decode s.cmd = .ok i ∧ Admitted i s ∧ atPrimitive i s.upc = true

/-- What the blocks of WAIT_SEQ know of `s.polls` (42_transmit.md R197): never more than ACK_POLL_LIMIT. -/
def pollsOk (u : Upc) (polls : Nat) : Prop :=
  match u.block with
  | .main => True
  | .poll _ => polls + 2 ≤ Config.ackPollLimit
  | .acked _ => polls + 1 ≤ Config.ackPollLimit
  | .timeout _ => if u.pos = 0 then polls + 1 = Config.ackPollLimit else polls = Config.ackPollLimit
  | .payload _ | .close _ => u.pos = 0 → 1 ≤ polls ∧ polls ≤ Config.ackPollLimit

/-- What the blocks of WRITE_TXN know of `s.idx` (44_transaction.md R240): the payload byte in flight is one of the LEN. -/
def idxOk (len : Nat) (u : Upc) (idx : Nat) : Prop :=
  match u.block with
  | .main | .poll .address | .acked .address | .timeout .address => True
  | .poll .payload | .acked .payload | .timeout .payload => idx < len
  | .payload .address => if u.pos = 0 then 0 < len else idx < len
  | .payload .payload => if u.pos = 0 then idx + 1 < len else idx < len
  | .close .address => if u.pos = 0 then len = 0 else idx = len
  | .close .payload => if u.pos = 0 then idx + 1 = len else idx = len

/-- While a command runs its two counters are in range (10_state.md R59). -/
def State.CountersOk (s : State) : Prop :=
  s.busy = true → pollsOk s.upc s.polls.toNat ∧
    ∀ a len, decode s.cmd = .ok (.writeTxn a len) → idxOk len.toNat s.upc s.idx.toNat

/-- RESULT is one of the values 10_state.md R51 to R54 give it. -/
def State.ResultOk (s : State) : Prop :=
  (match s.ackResult with
    | .noWait => s.pollCount.toNat = 0
    | .acked => 1 ≤ s.pollCount.toNat ∧ s.pollCount.toNat ≤ Config.ackPollLimit
    | .timeout => s.pollCount.toNat = Config.ackPollLimit) ∧
  (match s.txnStatus with
    | .noAckData => s.txnIndex.toNat < s.txbufSize
    | .noTxn | .ok | .noAckAddress => s.txnIndex = 0#16)

/-- At least the sum of the trace's `Delay` bounds has elapsed (40_bit_sequencer.md R147). -/
def State.TimeOk (s : State) : Prop := (traceBound s.trace : Rat) ≤ s.time

/-- A sound state: all of the above. -/
def State.Inv (s : State) : Prop :=
  s.SizeOk ∧ s.MemoryOk ∧ s.SequencerOk ∧ s.CountersOk ∧ s.ResultOk ∧ s.TimeOk

/-- The premise "no host bus error" (20_memory.md R84). -/
def State.NoBusError (s : State) : Prop := s.busErrors = []

/-- No host misuse has been flagged (60_exceptions.md R261). -/
def State.NoErrorBit (s : State) : Prop :=
  s.errIllegal = false ∧ s.errOverrun = false ∧ s.errNoinit = false ∧ s.errLen = false

/-- The end of a run: the host has performed its last access and BUSY = 0 (40_bit_sequencer.md R159). -/
def State.RunEnded (s : State) : Prop := s.hostProg = [] ∧ s.busy = false

/-- What holds of the lines between commands: SCL is HIGH only with SDA at HIGH level (70_reset_and_hazards.md R301). -/
def State.LinesOk (s : State) : Prop := s.scl = .high → sdaLevel s = .high

end Sys2Proof.Machine
end

