-- ==== Sys2Proof/Certificates/Slice0/Obligations.lean ====
section
/-! DEFINITION. The statements for the provers: what the numbered rules of the spec say the commands and the machine do.
The traces of the command rules are written out here from the rules, not taken from the pseudocode tables of the model. -/

namespace Sys2Proof.Expected

open Sys2Proof.Machine

/-- The bit `(v >> (7 - i)) & 1` as a level (20_memory.md R96). -/
def bit (v : Byte) (i : Nat) : Level := if v.getLsbD (7 - i) then .high else .low

/-- START_SEQ's events (41_bus_conditions.md R172). -/
def startTrace : List Event := [.dir .output, .scl .high, .sda .high, .delay 4, .sda .low, .scl .low]

/-- STOP_SEQ's events (41_bus_conditions.md R174). -/
def stopTrace : List Event :=
  [.dir .output, .scl .low, .sda .low, .delay 4, .scl .high, .delay 2, .sda .high, .delay 4]

/-- SHIFT_OUT(v)'s events (42_transmit.md R192). -/
def shiftTrace (v : Byte) : List Event :=
  [.dir .output] ++ (List.range 8).flatMap (fun i => [.sda (bit v i), .delay 2, .scl .high, .delay 2, .scl .low])
    ++ [.sda .high]

/-- WAIT_SEQ's events before its first Sample (42_transmit.md R197); `e` is the event of its `Drive(SDA, HIGH)`. -/
def waitHead (e : Event) : List Event := [.scl .high, .delay 2, e, .delay 2, .dir .input]

/-- The event of `Drive(SDA, HIGH)` in state `s` (40_bit_sequencer.md R144). -/
def driveHighEvent (s : State) : Event := if s.sdaDir = .output then .sda .high else .sdaIgnored .high

/-- WAIT_SEQ's events when sample `k` is the first LOW (42_transmit.md R197). -/
def ackedTrace (e : Event) (k : Nat) : List Event :=
  waitHead e ++ List.replicate (k - 1) (.sample .high) ++ [.sample .low, .scl .low]

/-- WAIT_SEQ's events on TIMEOUT (42_transmit.md R197, R199). -/
def timeoutTrace (e : Event) : List Event := waitHead e ++ List.replicate 100 (.sample .high) ++ stopTrace

/-- ACK_SEQ's events (43_receive.md R221). -/
def ackTrace : List Event :=
  [.scl .low, .dir .output, .sda .low, .delay 2, .scl .high, .delay 2, .scl .low]

/-- READ_SEQ's events when the samples are `bits` (43_receive.md R223). -/
def readTrace (bits : List Level) : List Event :=
  [.dir .input] ++ bits.flatMap fun b => [.scl .low, .delay 2, .scl .high, .delay 2, .sample b]

/-- The frames of a transaction, each with the sample at which it was acknowledged (44_transaction.md R240). -/
def framesTrace (frames : List (Byte × Nat)) : List Event :=
  frames.flatMap fun f => shiftTrace f.1 ++ ackedTrace (.sda .high) f.2

/-- The bus is left as every STOP_SEQ leaves it (41_bus_conditions.md R176). -/
def Stopped (t : State) : Prop := t.scl = .high ∧ t.sdaDir = .output ∧ t.sdaOut = .high ∧ t.phase = .idle

/-- The positions of a command's last primitives (41_bus_conditions.md R171, R172, R174, 42_transmit.md R192, R197,
43_receive.md R221, R223, 44_transaction.md R240; the form of a position is the model's, log entry 2). -/
def atEnd : Instr → Upc → Prop
  | .init, u => u = { block := .main, pos := 2 }
  | .start, u => u = { block := .main, pos := 5 }
  | .stop, u => u = { block := .main, pos := 7 }
  | .sendAddr _ _, u => u = { block := .main, pos := 41 }
  | .sendByte _, u => u = { block := .main, pos := 41 }
  | .waitAck, u => u = { block := .acked .address, pos := 0 } ∨ u = { block := .timeout .address, pos := 7 }
  | .ack, u => u = { block := .main, pos := 6 }
  | .readByte, u => u = { block := .main, pos := 47 }
  | .writeTxn _ _, u => ∃ f, u = { block := .timeout f, pos := 7 } ∨ u = { block := .close f, pos := 7 }

/-- The phase of a running WRITE_TXN after the primitives before position `u` (44_transaction.md R241): its START_SEQ is
6 primitives, a frame 42, the head of a wait 5 (the form of a position is the model's, log entry 2). -/
def txnPhase (u : Upc) : Phase :=
  match u.block with
  | .main => if u.pos ≤ 6 then .start else if u.pos ≤ 48 then .address else .ackWait
  | .poll _ | .acked _ => .ackWait
  | .payload _ => if u.pos = 0 then .ackWait else if u.pos ≤ 42 then .data else .ackWait
  | .timeout _ | .close _ => if u.pos = 0 then .ackWait else .stop

/-- The most primitives a command performs (70_reset_and_hazards.md R321). -/
def maxPrimitives : Instr → Nat
  | .init => 3
  | .start => 6
  | .stop => 8
  | .sendAddr _ _ => 42
  | .sendByte _ => 42
  | .waitAck => 113
  | .ack => 7
  | .readByte => 48
  | .writeTxn _ len => 14 + 148 * (len.toNat + 1)

end Sys2Proof.Expected

open Sys2Proof Sys2Proof.Machine Sys2Proof.Expected

/-! ### Encoding -/

/-- 30_encoding.md R116, R118: decoding the word of a command gives the command, every operand included. -/
def Obligations.DecodeOfEncode : Prop := ∀ i : Instr, decode (encode i) = .ok i

/-- 30_encoding.md R117: a word that decodes to a command is exactly that command's word. -/
def Obligations.DecodedWordIsTheEncoding : Prop := ∀ (w : Word) (i : Instr), decode w = .ok i → w = encode i

/-- 30_encoding.md R116: exactly which words are ILLEGAL. -/
def Obligations.IllegalWords : Prop :=
  ∀ w : Word, (∃ e, decode w = .error e) ↔
    (w.extractLsb' 4 4 ≠ 0#4 ∨ w.extractLsb' 0 4 = 0x0#4 ∨ 0xA ≤ (w.extractLsb' 0 4).toNat ∨
      (w.extractLsb' 0 4 ∈ [0x1#4, 0x2#4, 0x3#4, 0x6#4, 0x7#4, 0x8#4] ∧ w.extractLsb' 8 24 ≠ 0#24) ∨
      (w.extractLsb' 0 4 ∈ [0x4#4, 0x5#4] ∧ w.extractLsb' 16 16 ≠ 0#16) ∨
      (w.extractLsb' 0 4 = 0x9#4 ∧ w.getLsbD 15 = true))

/-- 95_test_vectors.md part 2 E: a word of each command decodes as written there. -/
def Obligations.SampleWordsDecode : Prop :=
  decode 0x00000001 = .ok .init ∧ decode 0x00000002 = .ok .start ∧ decode 0x00000003 = .ok .stop ∧
  decode 0x00005004 = .ok (.sendAddr 0x50 .write) ∧ decode 0x0000D004 = .ok (.sendAddr 0x50 .read) ∧
  decode 0x0000AA05 = .ok (.sendByte 0xAA) ∧ decode 0x00000006 = .ok .waitAck ∧ decode 0x00000007 = .ok .ack ∧
  decode 0x00000008 = .ok .readByte ∧ decode 0x00025009 = .ok (.writeTxn 0x50 2)

/-- 30_encoding.md R113: the address frame is `{ADDR7, RW}`, that is `2 * ADDR7 + RW`. -/
def Obligations.AddressFrameValue : Prop :=
  ∀ (a : Addr7) (rw : Rw), addressFrame a rw = a ++ rw.toBit ∧
    (addressFrame a rw).toNat = 2 * a.toNat + rw.toBit.toNat

/-! ### The host window -/

/-- 40_bit_sequencer.md R153: a write of CMD, case by case in the order of its tests. -/
def Obligations.CommandAcceptance : Prop :=
  ∀ (w : Word) (s : State),
    (s.busy = true → hostWrite 0x000 .word w s = { s with errOverrun := true }) ∧
    (s.busy = false → ∀ e, decode w = .error e → hostWrite 0x000 .word w s = { s with errIllegal := true }) ∧
    (s.busy = false → ∀ i, decode w = .ok i → s.initDone = false → i ≠ .init →
      hostWrite 0x000 .word w s = { s with errNoinit := true }) ∧
    (s.busy = false → ∀ a len, decode w = .ok (.writeTxn a len) → s.initDone = true → s.txbufSize < len.toNat →
      hostWrite 0x000 .word w s = { s with errLen := true }) ∧
    (s.busy = false → ∀ i, decode w = .ok i → (s.initDone = true ∨ i = .init) →
      (∀ a len, i = .writeTxn a len → len.toNat ≤ s.txbufSize) →
      hostWrite 0x000 .word w s = { s with cmd := w, busy := true, upc := { block := .main, pos := 0 } })

/-- 20_memory.md R82 to R84, R95: an access that is neither an aligned 32-bit access of a register nor an aligned access
inside TXBUF changes nothing, reads 0, and is recorded. -/
def Obligations.ErrorResponse : Prop :=
  ∀ (off : Offset) (size : Size) (w : Word) (s : State),
    ¬ (size = .word ∧ off.toNat ∈ [0x000, 0x004, 0x008, 0x00C, 0x010]) →
    ¬ (0x100 ≤ off.toNat ∧ off.toNat + sizeBytes size ≤ 0x100 + s.txbufSize ∧ off.toNat % sizeBytes size = 0) →
    hostWrite off size w s = { s with busErrors := s.busErrors ++ [{ off := off, size := size }] } ∧
    readData off size s = (0#32, { s with busErrors := s.busErrors ++ [{ off := off, size := size }] })

/-- 20_memory.md R84: a recorded bus error is never cleared, by any step. -/
def Obligations.BusErrorsNeverCleared : Prop :=
  ∀ s t : State, step s = .next t → s.busErrors <+: t.busErrors

/-- 10_state.md R46, R47, R50: the fields of STATUS as read, and that reading it changes nothing. -/
def Obligations.StatusRead : Prop :=
  ∀ s : State, (readData 0x004 .word s).2 = s ∧
    (let w := (readData 0x004 .word s).1
     w.getLsbD 0 = s.busy ∧ w.getLsbD 1 = s.initDone ∧ w.getLsbD 2 = s.errIllegal ∧ w.getLsbD 3 = s.errOverrun ∧
     w.getLsbD 4 = s.errNoinit ∧ w.getLsbD 5 = s.errLen ∧ w.extractLsb' 6 2 = 0#2 ∧
     w.extractLsb' 8 3 = phaseCode s.phase ∧ w.extractLsb' 11 21 = 0#21)

/-- 10_state.md R51 to R54: the fields of RESULT as read, and that reading it changes nothing. -/
def Obligations.ResultRead : Prop :=
  ∀ s : State, (readData 0x008 .word s).2 = s ∧
    (let w := (readData 0x008 .word s).1
     w.extractLsb' 0 2 = ackResultCode s.ackResult ∧ w.extractLsb' 2 2 = 0#2 ∧
     w.extractLsb' 4 2 = txnStatusCode s.txnStatus ∧ w.extractLsb' 6 2 = 0#2 ∧
     w.extractLsb' 8 8 = s.pollCount ∧ w.extractLsb' 16 16 = s.txnIndex)

/-- 10_state.md R45, R55, R56: CMD reads 0, RXDATA its byte, LINES the pin state; reading them changes nothing. -/
def Obligations.CmdRxdataLinesRead : Prop :=
  ∀ s : State, readData 0x000 .word s = (0#32, s) ∧ readData 0x00C .word s = (s.rxdata.setWidth 32, s) ∧
    (readData 0x010 .word s).2 = s ∧
    (let w := (readData 0x010 .word s).1
     w.getLsbD 0 = bitOfLevel s.scl ∧ w.getLsbD 1 = bitOfLevel s.sdaOut ∧
     w.getLsbD 2 = (s.sdaDir == .output) ∧ w.extractLsb' 3 29 = 0#29)

/-- 10_state.md R47, R48, 20_memory.md R86: a write of STATUS clears the error bits written as 1 and does nothing else;
writes of RESULT, RXDATA and LINES do nothing. -/
def Obligations.StatusAndReadOnlyWrites : Prop :=
  ∀ (w : Word) (s : State),
    hostWrite 0x004 .word w s =
      { s with
        errIllegal := s.errIllegal && !w.getLsbD 2
        errOverrun := s.errOverrun && !w.getLsbD 3
        errNoinit := s.errNoinit && !w.getLsbD 4
        errLen := s.errLen && !w.getLsbD 5 } ∧
    hostWrite 0x008 .word w s = s ∧ hostWrite 0x00C .word w s = s ∧ hostWrite 0x010 .word w s = s

/-- 20_memory.md R92, R93: a TXBUF write stores its bytes little-endian at consecutive indices and changes no other byte
and no other state; while a command runs it stores nothing and sets ERR_OVERRUN. -/
def Obligations.TxbufWrite : Prop :=
  ∀ (off : Offset) (size : Size) (v : Word) (s : State) (i : Nat), s.MemoryOk →
    off.toNat = 0x100 + i → i + sizeBytes size ≤ s.txbufSize → off.toNat % sizeBytes size = 0 →
    (s.busy = true → hostWrite off size v s = { s with errOverrun := true }) ∧
    (s.busy = false →
      hostWrite off size v s = { s with txbuf := (hostWrite off size v s).txbuf } ∧
      (∀ k, k < sizeBytes size →
        Memory.read (hostWrite off size v s).txbuf (i + k) = some (v.extractLsb' (8 * k) 8)) ∧
      (∀ j, j < i ∨ i + sizeBytes size ≤ j →
        Memory.read (hostWrite off size v s).txbuf j = Memory.read s.txbuf j))

/-- 20_memory.md R93: what a TXBUF write stored, the same access reads back, cut to its width. -/
def Obligations.TxbufStoreThenLoad : Prop :=
  ∀ (off : Offset) (size : Size) (v : Word) (s : State), s.MemoryOk → s.busy = false →
    0x100 ≤ off.toNat → off.toNat + sizeBytes size ≤ 0x100 + s.txbufSize → off.toNat % sizeBytes size = 0 →
    (readData off size (hostWrite off size v s)).1.toNat = v.toNat % 2 ^ (8 * sizeBytes size)

/-- 20_memory.md R91, R93, R94: every aligned read inside TXBUF, of every width and whether a command runs or not: byte
`k` of the data is the stored byte `i + k`, or a free value, fresh for each byte, where none was stored; the rest of the
data is 0, and nothing changes but the count of draws. The free values and their count are log entry 6. -/
def Obligations.TxbufRead : Prop :=
  ∀ (off : Offset) (size : Size) (s : State) (i : Nat),
    off.toNat = 0x100 + i → i + sizeBytes size ≤ s.txbufSize → off.toNat % sizeBytes size = 0 →
    (readData off size s).2 = { s with draws := s.draws + sizeBytes size } ∧
    (∀ k, k < sizeBytes size → (readData off size s).1.extractLsb' (8 * k) 8 =
      (Memory.read s.txbuf (i + k)).getD (Config.drawByte (s.draws + k))) ∧
    (readData off size s).1.toNat < 2 ^ (8 * sizeBytes size)

/-- 40_bit_sequencer.md R156: while a command runs, a host step changes no pin, phase, result, internal register, TXBUF
byte, trace or time, only the error bits and the host's own records. -/
def Obligations.HostCannotDisturbCommand : Prop :=
  ∀ s : State, s.busy = true →
    hostStep s = { s with
      errIllegal := (hostStep s).errIllegal
      errOverrun := (hostStep s).errOverrun
      errNoinit := (hostStep s).errNoinit
      errLen := (hostStep s).errLen
      busErrors := (hostStep s).busErrors
      hostReads := (hostStep s).hostReads
      hostProg := (hostStep s).hostProg
      draws := (hostStep s).draws }

/-! ### Steps -/

/-- 40_bit_sequencer.md R150, R152: with a command accepted, an engine turn is one engine step of that command; with no
turn given and no host program it is the engine's turn, and with a host program a free number of host steps comes before
the engine's next step (log entry 10). -/
def Obligations.StepRunsTheLatchedCommand : Prop :=
  ∀ (s : State) (i : Instr), s.busy = true → decode s.cmd = .ok i →
    (∀ rest, s.turns = .engine :: rest → step s = exec i { s with turns := rest }) ∧
    (s.turns = [] → s.hostProg = [] → step s = exec i s) ∧
    (s.turns = [] → s.hostProg ≠ [] →
      (∀ k, s.lead = some (k + 1) → step s = .next (hostStep { s with lead := some k })) ∧
      (s.lead = some 0 → step s = exec i { s with lead := none }) ∧
      (s.lead = none → step s = step { s with lead := some (Config.hostLead s.draws), draws := s.draws + 1 }))

/-- 40_bit_sequencer.md R152: the engine is weakly fair. In every infinite run, from every moment on, a moment comes where
BUSY = 0 or where the engine steps. How a run's turns are given is log entry 10. -/
def Obligations.EngineIsWeaklyFair : Prop :=
  ∀ run : Nat → State, (∀ n, step (run n) = .next (run (n + 1))) →
    ∀ n, ∃ m, n ≤ m ∧ ((run m).busy = false ∨ ∃ e, (run (m + 1)).trace = (run m).trace ++ [e])

/-- 40_bit_sequencer.md R150, R151, 30_encoding.md R119: a host turn is one host step at every state, and an engine turn
with BUSY = 0 does nothing but pass. A host step is the next access of the host's program: WR writes, RD reads and
records the data, and both move on; POLL reads 32 bits, records the data, and stays until `(read & mask) = value`; with
no access left nothing happens. The turns, the host's program and its record are log entries 8 to 10. -/
def Obligations.HostTurnAlwaysEnabled : Prop :=
  ∀ s : State,
    (∀ rest, s.turns = .host :: rest → step s = .next (hostStep { s with turns := rest })) ∧
    (∀ rest, s.turns = .engine :: rest → s.busy = false → step s = .next { s with turns := rest }) ∧
    (s.hostProg = [] → hostStep s = s) ∧
    (∀ off size w prog, s.hostProg = .write off size w :: prog →
      hostStep s = { hostWrite off size w s with hostProg := prog }) ∧
    (∀ off size prog, s.hostProg = .read off size :: prog →
      hostStep s = { (readData off size s).2 with
        hostReads := s.hostReads ++ [{ off := off, size := size, data := (readData off size s).1 }]
        hostProg := prog }) ∧
    (∀ off mask value prog, s.hostProg = .poll off mask value :: prog →
      hostStep s = { (readData off .word s).2 with
        hostReads := s.hostReads ++ [{ off := off, size := .word, data := (readData off .word s).1 }]
        hostProg := if (readData off .word s).1 &&& mask = value then prog else s.hostProg })

/-- 70_reset_and_hazards.md R290: the reset input at any state, whatever runs. -/
def Obligations.ResetInput : Prop :=
  ∀ (s : State) (rest : List Turn), s.turns = .reset :: rest →
    ∃ t, step s = .next t ∧ t.scl = .high ∧ t.sdaDir = .input ∧ t.sdaOut = .high ∧ t.phase = .idle ∧
      t.initDone = false ∧ t.busy = false ∧ statusWord t = 0#32 ∧ resultWord t = 0#32 ∧ rxdataWord t = 0#32 ∧
      linesWord t = 0x3#32 ∧ (∀ i, Memory.read t.txbuf i = none) ∧ t.trace = [] ∧ t.time = 0

/-- 10_state.md R64, 70_reset_and_hazards.md R291: the state after reset, as far as the spec gives values. -/
def Obligations.ResetValues : Prop :=
  statusWord State.reset = 0#32 ∧ resultWord State.reset = 0#32 ∧ rxdataWord State.reset = 0#32 ∧
  linesWord State.reset = 0x3#32 ∧ State.reset.scl = .high ∧ State.reset.sdaDir = .input ∧
  State.reset.sdaOut = .high ∧ State.reset.phase = .idle ∧ State.reset.initDone = false ∧
  State.reset.busy = false ∧ (∀ i, Memory.read State.reset.txbuf i = none) ∧ State.reset.trace = [] ∧
  State.reset.time = 0 ∧ busIdle State.reset = true

/-- 70_reset_and_hazards.md R293: INIT written to an idle block's CMD and four turns later INIT_DONE is set, BUSY is 0 and
no error bit is new.
(What the internal registers hold after completion: log entry 18.) -/
def Obligations.BootThroughTheHostPort : Prop :=
  ∀ (s : State) (prog : List HostOp) (rest : List Turn), s.busy = false →
    s.hostProg = .write 0x000 .word 0x00000001 :: prog → s.turns = .host :: .engine :: .engine :: .engine :: rest →
    ∃ t, Sys2Proof.core.run 4 s = .next t ∧
      t = { s with phase := .idle, sdaDir := .output, scl := .low, sdaOut := .low, initDone := true, busy := false,
                   cmd := 0x00000001, upc := t.upc, trace := s.trace ++ [.dir .output, .scl .low, .sda .low],
                   hostProg := prog, turns := rest }

/-! ### Every command -/

/-- 40_bit_sequencer.md R150, R141: at each of its primitives every command answers a next state with exactly one event
more. -/
def Obligations.EveryPrimitiveIsPerformed : Prop :=
  ∀ (i : Instr) (s : State), atPrimitive i s.upc = true → ∃ t e, exec i s = .next t ∧ t.trace = s.trace ++ [e]

/-- 10_state.md R42, 40_bit_sequencer.md R150: the first engine step of every command: its entry phase, its first
primitive, nothing else. -/
def Obligations.EveryCommandBegins : Prop :=
  ∀ s : State, s.upc = { block := .main, pos := 0 } →
    exec .init s = .next { s with phase := .idle, sdaDir := .output, trace := s.trace ++ [.dir .output],
                                  upc := { block := .main, pos := 1 } } ∧
    exec .start s = .next { s with phase := .start, sdaDir := .output, trace := s.trace ++ [.dir .output],
                                   upc := { block := .main, pos := 1 } } ∧
    exec .stop s = .next { s with phase := .stop, sdaDir := .output, trace := s.trace ++ [.dir .output],
                                  upc := { block := .main, pos := 1 } } ∧
    (∀ a rw, exec (.sendAddr a rw) s =
      .next { s with phase := .address, shift := a ++ rw.toBit, sdaDir := .output, trace := s.trace ++ [.dir .output],
                     upc := { block := .main, pos := 1 } }) ∧
    (∀ d, exec (.sendByte d) s =
      .next { s with phase := .data, shift := d, sdaDir := .output, trace := s.trace ++ [.dir .output],
                     upc := { block := .main, pos := 1 } }) ∧
    exec .waitAck s = .next { s with phase := .ackWait, scl := .high, trace := s.trace ++ [.scl .high],
                                     upc := { block := .main, pos := 1 } } ∧
    exec .ack s = .next { s with phase := .data, scl := .low, trace := s.trace ++ [.scl .low],
                                 upc := { block := .main, pos := 1 } } ∧
    exec .readByte s = .next { s with phase := .data, sdaDir := .input, trace := s.trace ++ [.dir .input],
                                      upc := { block := .main, pos := 1 } } ∧
    (∀ a len, exec (.writeTxn a len) s =
      .next { s with phase := .start, sdaDir := .output, trace := s.trace ++ [.dir .output],
                     upc := { block := .main, pos := 1 } })

/-- 40_bit_sequencer.md R152, R154, 70_reset_and_hazards.md R301, R321: from its start every command, in every state,
completes within its number of primitives, keeps BUSY until then, and leaves SCL HIGH only with SDA HIGH. -/
def Obligations.EveryCommandCompletes : Prop :=
  ∀ (i : Instr) (s : State), s.busy = true → s.upc = { block := .main, pos := 0 } →
    ∃ n t, 0 < n ∧ n ≤ maxPrimitives i ∧ execN i n s = .next t ∧ t.busy = false ∧ t.LinesOk ∧
      t.trace.length = s.trace.length + n ∧
      (∀ m, m < n → ∃ u, execN i m s = .next u ∧ u.busy = true)

/-- 40_bit_sequencer.md R147: an engine step appends one event and moves time forward by at least that event's bound,
and not at all where the event is a pin's. -/
def Obligations.TimeAdvancesByTheBound : Prop :=
  ∀ (i : Instr) (s t : State), exec i s = .next t →
    ∃ e, t.trace = s.trace ++ [e] ∧ s.time + ((eventBound e : Nat) : Rat) ≤ t.time ∧
      ((∃ d, e = .dir d) ∨ (∃ v, e = .scl v ∨ e = .sda v ∨ e = .sdaIgnored v) → t.time = s.time)

/-- 10_state.md R41: the phase decides nothing: neither acceptance nor any command's step. -/
def Obligations.PhaseIsInformational : Prop :=
  (∀ (i : Instr) (s t : State) (p : Phase), exec i s = .next t →
    ∃ q, exec i { s with phase := p } = .next { t with phase := q }) ∧
  (∀ (i : Instr) (s : State) (p : Phase), (∃ f, exec i s = .fault f) → ∃ f, exec i { s with phase := p } = .fault f) ∧
  (∀ (w : Word) (s : State) (p : Phase), offer w { s with phase := p } = { offer w s with phase := p })

/-! ### Frames -/

/-- 10_state.md R63: what no command's step changes: the error bits, the latched word, TXBUF (every byte), the host's
side, the turns.
(What the internal registers hold after completion: log entry 18.) -/
def Obligations.CommandFrame : Prop :=
  ∀ (i : Instr) (s t : State), exec i s = .next t →
    t.errIllegal = s.errIllegal ∧ t.errOverrun = s.errOverrun ∧ t.errNoinit = s.errNoinit ∧ t.errLen = s.errLen ∧
    t.cmd = s.cmd ∧ t.txbufSize = s.txbufSize ∧ t.txbuf = s.txbuf ∧
    (∀ a, Memory.read t.txbuf a = Memory.read s.txbuf a) ∧
    t.busErrors = s.busErrors ∧ t.hostReads = s.hostReads ∧ t.hostProg = s.hostProg ∧ t.turns = s.turns

/-- 41_bus_conditions.md R171, R173, R175, 42_transmit.md R193, R194, 43_receive.md R222: what the steps of INIT, START,
STOP, SEND_ADDR, SEND_BYTE and ACK leave alone, beside `CommandFrame`.
(What the internal registers hold after completion: log entry 18.) -/
def Obligations.BusAndSendFrame : Prop :=
  ∀ (i : Instr) (s t : State),
    (i = .init ∨ i = .start ∨ i = .stop ∨ (∃ a rw, i = .sendAddr a rw) ∨ (∃ d, i = .sendByte d) ∨ i = .ack) →
    exec i s = .next t →
    t.ackResult = s.ackResult ∧ t.pollCount = s.pollCount ∧ t.txnStatus = s.txnStatus ∧ t.txnIndex = s.txnIndex ∧
    t.rxdata = s.rxdata ∧ t.acc = s.acc ∧ t.polls = s.polls ∧ t.idx = s.idx ∧ t.sampled = s.sampled ∧
    t.slave = s.slave ∧ (i ≠ .init → t.initDone = s.initDone) ∧
    ((i = .init ∨ i = .start ∨ i = .stop ∨ i = .ack) → t.shift = s.shift)

/-- 42_transmit.md R198, 43_receive.md R224, 44_transaction.md R240: what the steps of WAIT_ACK, READ_BYTE and WRITE_TXN
leave alone, beside `CommandFrame`.
(What the internal registers hold after completion: log entry 18.) -/
def Obligations.WaitReadTransactionFrame : Prop :=
  ∀ s t : State,
    (exec .waitAck s = .next t → t.initDone = s.initDone ∧ t.txnStatus = s.txnStatus ∧ t.txnIndex = s.txnIndex ∧
      t.rxdata = s.rxdata ∧ t.shift = s.shift ∧ t.acc = s.acc ∧ t.idx = s.idx) ∧
    (exec .readByte s = .next t → t.initDone = s.initDone ∧ t.ackResult = s.ackResult ∧ t.pollCount = s.pollCount ∧
      t.txnStatus = s.txnStatus ∧ t.txnIndex = s.txnIndex ∧ t.shift = s.shift ∧ t.polls = s.polls ∧ t.idx = s.idx) ∧
    (∀ a len, exec (.writeTxn a len) s = .next t →
      t.initDone = s.initDone ∧ t.rxdata = s.rxdata ∧ t.acc = s.acc)

/-- 10_state.md R57, R63: RXDATA changes only in a step that completes a READ_BYTE, ACK_RESULT and POLL_COUNT only in a
step that ends a WAIT_SEQ (the last of WAIT_ACK, or in WRITE_TXN, by 40_bit_sequencer.md R150, the step after the wait's
last `Drive(SCL, LOW)` or the last of its STOP_SEQ), TXN_STATUS and TXN_INDEX only in one that completes a WRITE_TXN. -/
def Obligations.ResultsChangeOnlyWhereNamed : Prop :=
  ∀ (i : Instr) (s t : State), exec i s = .next t →
    (t.rxdata ≠ s.rxdata → i = .readByte ∧ t.busy = false ∧ atEnd i s.upc) ∧
    ((t.ackResult ≠ s.ackResult ∨ t.pollCount ≠ s.pollCount) →
      i = .waitAck ∧ t.busy = false ∧ atEnd i s.upc ∨
      ∃ a len f, i = .writeTxn a len ∧
        (s.upc = { block := .payload f, pos := 0 } ∨ s.upc = { block := .close f, pos := 0 } ∨
          s.upc = { block := .timeout f, pos := 7 } ∧ t.busy = false)) ∧
    ((t.txnStatus ≠ s.txnStatus ∨ t.txnIndex ≠ s.txnIndex) →
      (∃ a len, i = .writeTxn a len) ∧ t.busy = false ∧ atEnd i s.upc)

/-! ### Bus conditions -/

/-- 41_bus_conditions.md R171: INIT from start to end.
(What the internal registers hold after completion: log entry 18.) -/
def Obligations.InitResult : Prop :=
  ∀ s : State, s.upc = { block := .main, pos := 0 } →
    ∃ u t, execN .init 2 s = .next u ∧ exec .init u = .next t ∧
      t = { s with phase := .idle, sdaDir := .output, scl := .low, sdaOut := .low, initDone := true, busy := false,
                   upc := t.upc, trace := s.trace ++ [.dir .output, .scl .low, .sda .low] } ∧
      linesWord t = 0x4#32

/-- 41_bus_conditions.md R172, R173: START from start to end, its start condition included.
(What the internal registers hold after completion: log entry 18.) -/
def Obligations.StartResult : Prop :=
  ∀ s : State, s.upc = { block := .main, pos := 0 } →
    (∃ u t, execN .start 5 s = .next u ∧ exec .start u = .next t ∧
      t = { s with phase := .start, sdaDir := .output, scl := .low, sdaOut := .low, busy := false,
                   upc := t.upc, trace := s.trace ++ startTrace, time := t.time, draws := t.draws } ∧
      s.time + 4 ≤ t.time ∧ linesWord t = 0x4#32) ∧
    4 ∈ conditionsFrom startCondition 0 (execStates .start 6 s)

/-- 41_bus_conditions.md R173: which conditions START makes, by the pin state it finds. -/
def Obligations.StartConditions : Prop :=
  ∀ s : State, s.upc = { block := .main, pos := 0 } →
    (s.scl = .high → sdaLevel s = .high → s.sdaOut = .high →
      conditionsFrom startCondition 0 (execStates .start 6 s) = [4] ∧
      conditionsFrom stopCondition 0 (execStates .start 6 s) = []) ∧
    (s.scl = .low → s.sdaOut = .low →
      conditionsFrom startCondition 0 (execStates .start 6 s) = [4] ∧
      conditionsFrom stopCondition 0 (execStates .start 6 s) = [2]) ∧
    (s.scl = .low → s.sdaOut = .high →
      conditionsFrom startCondition 0 (execStates .start 6 s) = [4] ∧
      conditionsFrom stopCondition 0 (execStates .start 6 s) = [])

/-- 41_bus_conditions.md R174, R175: STOP from start to end.
(What the internal registers hold after completion: log entry 18.) -/
def Obligations.StopResult : Prop :=
  ∀ s : State, s.upc = { block := .main, pos := 0 } →
    ∃ u t, execN .stop 7 s = .next u ∧ exec .stop u = .next t ∧
      t = { s with phase := .idle, sdaDir := .output, scl := .high, sdaOut := .high, busy := false,
                   upc := t.upc, trace := s.trace ++ stopTrace, time := t.time, draws := t.draws } ∧
      s.time + 10 ≤ t.time ∧ linesWord t = 0x7#32

/-- 41_bus_conditions.md R176: every STOP_SEQ, of STOP, of a TIMEOUT, or of WRITE_TXN's end, from every state, leaves the
bus idle with SDA driven and makes exactly one stop condition. -/
def Obligations.EveryStopSeqStopsTheBus : Prop :=
  ∀ (i : Instr) (b : Block) (s : State), s.upc = { block := b, pos := 0 } →
    (i = .stop ∧ b = .main ∨ i = .waitAck ∧ b = .timeout .address ∨
      ∃ a len f, i = .writeTxn a len ∧ (b = .timeout f ∨ b = .close f)) →
    ∃ t, execN i 8 s = .next t ∧ Stopped t ∧ t.busy = false ∧ busIdle t = true ∧
      conditionsFrom stopCondition 0 (execStates i 8 s) = [6]

/-! ### Transmit -/

/-- 42_transmit.md R192, R193: SEND_ADDR from start to end.
(What the internal registers hold after completion: log entry 18.) -/
def Obligations.SendAddrResult : Prop :=
  ∀ (a : Addr7) (rw : Rw) (s : State), s.upc = { block := .main, pos := 0 } →
    ∃ u t, execN (.sendAddr a rw) 41 s = .next u ∧ exec (.sendAddr a rw) u = .next t ∧
      t = { s with phase := .address, shift := a ++ rw.toBit, sdaDir := .output, scl := .low, sdaOut := .high,
                   busy := false, upc := t.upc, trace := s.trace ++ shiftTrace (a ++ rw.toBit), time := t.time,
                   draws := t.draws } ∧
      s.time + 32 ≤ t.time

/-- 42_transmit.md R192, R194: SEND_BYTE from start to end.
(What the internal registers hold after completion: log entry 18.) -/
def Obligations.SendByteResult : Prop :=
  ∀ (d : Byte) (s : State), s.upc = { block := .main, pos := 0 } →
    ∃ u t, execN (.sendByte d) 41 s = .next u ∧ exec (.sendByte d) u = .next t ∧
      t = { s with phase := .data, shift := d, sdaDir := .output, scl := .low, sdaOut := .high,
                   busy := false, upc := t.upc, trace := s.trace ++ shiftTrace d, time := t.time,
                   draws := t.draws } ∧
      s.time + 32 ≤ t.time

/-- 42_transmit.md R195: from SCL LOW, every SHIFT_OUT(v), of SEND_BYTE, of SEND_ADDR, of WRITE_TXN's address frame and of
its payload frames, makes eight clock pulses with the bits of `v`, held steady, and no condition. A payload byte never
written is a free value (log entry 6), and `s.idx` is the index of the byte before (log entry 2). -/
def Obligations.ByteFraming : Prop :=
  ∀ (s : State) (i : Instr) (v : Byte), s.scl = .low →
    (i = .sendByte v ∧ s.upc = { block := .main, pos := 0 } ∨
      (∃ a rw, i = .sendAddr a rw ∧ v = a ++ rw.toBit ∧ s.upc = { block := .main, pos := 0 }) ∨
      (∃ a len, i = .writeTxn a len ∧ v = a ++ 0#1 ∧ s.upc = { block := .main, pos := 6 }) ∨
      (∃ a len, i = .writeTxn a len ∧ v = (Memory.read s.txbuf 0).getD (Config.drawByte s.draws) ∧
        s.upc = { block := .payload .address, pos := 0 }) ∨
      (∃ a len, i = .writeTxn a len ∧
        v = (Memory.read s.txbuf (s.idx + 1#16).toNat).getD (Config.drawByte s.draws) ∧
        s.upc = { block := .payload .payload, pos := 0 })) →
    clockPulses (execStates i 42 s) = (List.range 8).map (fun k => { bit := bit v k, steady := true }) ∧
    conditionsFrom startCondition 0 (execStates i 42 s) = [] ∧
    conditionsFrom stopCondition 0 (execStates i 42 s) = []

/-- 70_reset_and_hazards.md R302: a send issued with SCL HIGH and SDA HIGH makes only seven clock pulses, of bits 6 to 0,
and a start condition where its first bit is 0. -/
def Obligations.SendWithSclHigh : Prop :=
  ∀ (i : Instr) (v : Byte) (s : State),
    (i = .sendByte v ∨ ∃ a rw, i = .sendAddr a rw ∧ v = a ++ rw.toBit) →
    s.upc = { block := .main, pos := 0 } → s.scl = .high → sdaLevel s = .high → s.sdaOut = .high →
    clockPulses (execStates i 42 s) = (List.range 7).map (fun k => { bit := bit v (k + 1), steady := true }) ∧
    conditionsFrom startCondition 0 (execStates i 42 s) = (if bit v 0 = .low then [1] else []) ∧
    conditionsFrom stopCondition 0 (execStates i 42 s) = []

/-- 42_transmit.md R197: WAIT_ACK in every state and whatever the slave answers: either some sample `k` is the first LOW
and it ends ACKED, or 100 samples are HIGH and it ends TIMEOUT with the bus stopped.
(What the internal registers hold after completion: log entry 18.) -/
def Obligations.WaitAckOutcome : Prop :=
  ∀ s : State, s.upc = { block := .main, pos := 0 } →
    (∃ k u t, 1 ≤ k ∧ k ≤ 100 ∧ execN .waitAck (5 + k) s = .next u ∧ exec .waitAck u = .next t ∧
      t = { s with phase := .ackWait, scl := .low, sdaDir := .input, sdaOut := t.sdaOut, busy := false,
                   ackResult := .acked, pollCount := BitVec.ofNat 8 k, polls := BitVec.ofNat 8 k, sampled := .low,
                   upc := t.upc, slave := t.slave, trace := s.trace ++ ackedTrace (driveHighEvent s) k,
                   time := t.time, draws := t.draws } ∧
      (s.sdaDir = .output → t.sdaOut = .high) ∧ s.time + 4 ≤ t.time) ∨
    (∃ u t, execN .waitAck 112 s = .next u ∧ exec .waitAck u = .next t ∧
      t = { s with phase := .idle, scl := .high, sdaDir := .output, sdaOut := .high, busy := false,
                   ackResult := .timeout, pollCount := 100#8, polls := 100#8, sampled := .high,
                   upc := t.upc, slave := t.slave, trace := s.trace ++ timeoutTrace (driveHighEvent s),
                   time := t.time, draws := t.draws } ∧
      s.time + 14 ≤ t.time)

/-- 42_transmit.md R197, R200: a slave whose first LOW answer is the `k`-th, `1 <= k <= 100`, makes WAIT_ACK end ACKED
with POLL_COUNT = k, at `k = 100` too. -/
def Obligations.WaitAckAcked : Prop :=
  ∀ (k : Nat) (rest : List Level) (s : State), 1 ≤ k → k ≤ 100 → s.upc = { block := .main, pos := 0 } →
    s.slave = List.replicate (k - 1) .high ++ .low :: rest →
    ∃ t, execN .waitAck (6 + k) s = .next t ∧ t.busy = false ∧ t.ackResult = .acked ∧ t.pollCount.toNat = k ∧
      t.phase = .ackWait ∧ t.scl = .low ∧ t.sdaDir = .input ∧ t.slave = rest ∧
      t.trace = s.trace ++ ackedTrace (driveHighEvent s) k

/-- 42_transmit.md R199: a slave that answers HIGH 100 times makes WAIT_ACK take exactly 100 samples and run exactly one
STOP_SEQ (events 105 to 112) with one stop condition, and end TIMEOUT with POLL_COUNT = 100; entered as SHIFT_OUT leaves
the lines, it makes no other condition. -/
def Obligations.WaitAckTimeout : Prop :=
  ∀ (rest : List Level) (s : State), s.upc = { block := .main, pos := 0 } →
    s.slave = List.replicate 100 .high ++ rest →
    ∃ t, execN .waitAck 113 s = .next t ∧ t.busy = false ∧ Stopped t ∧ t.ackResult = .timeout ∧
      t.pollCount = 100#8 ∧ t.slave = rest ∧ t.trace = s.trace ++ timeoutTrace (driveHighEvent s) ∧
      (conditionsFrom stopCondition 0 (execStates .waitAck 113 s)).filter (105 ≤ ·) = [111] ∧
      (s.scl = .low → s.sdaDir = .output → s.sdaOut = .high →
        conditionsFrom stopCondition 0 (execStates .waitAck 113 s) = [111] ∧
        conditionsFrom startCondition 0 (execStates .waitAck 113 s) = [])

/-- 42_transmit.md R196, 70_reset_and_hazards.md R303: the first five events of WAIT_ACK by the pin state it finds: after
a send no condition; after INIT, START, ACK or READ_BYTE its SCL edge clocks a LOW bit and event 2 is a stop condition;
with SCL HIGH it raises nothing; with SDA released event 2 is an ignored write. -/
def Obligations.WaitAckEntryStates : Prop :=
  ∀ s : State, s.upc = { block := .main, pos := 0 } →
    conditionsFrom startCondition 0 (execStates .waitAck 5 s) = [] ∧
    (s.scl = .low → s.sdaDir = .output → s.sdaOut = .high →
      conditionsFrom stopCondition 0 (execStates .waitAck 5 s) = [] ∧
      (wireEvents (execStates .waitAck 5 s)).head? =
        some { event := .scl .high, sclBefore := .low, line := .high }) ∧
    (s.scl = .low → s.sdaDir = .output → s.sdaOut = .low →
      conditionsFrom stopCondition 0 (execStates .waitAck 5 s) = [2] ∧
      (wireEvents (execStates .waitAck 5 s)).head? =
        some { event := .scl .high, sclBefore := .low, line := .low }) ∧
    (s.scl = .high → s.sdaDir = .output → s.sdaOut = .high →
      conditionsFrom stopCondition 0 (execStates .waitAck 5 s) = [] ∧
      (wireEvents (execStates .waitAck 5 s)).head? =
        some { event := .scl .high, sclBefore := .high, line := .high }) ∧
    (s.sdaDir = .input →
      conditionsFrom stopCondition 0 (execStates .waitAck 5 s) = [] ∧
      (wireEvents (execStates .waitAck 5 s))[2]? =
        some { event := .sdaIgnored .high, sclBefore := .high, line := .high })

/-- 70_reset_and_hazards.md R305: no command writes SDA while SDA is an input, but WAIT_ACK entered with SDA released. -/
def Obligations.SdaIgnoredOnlyInWaitAck : Prop :=
  ∀ (i : Instr) (n : Nat) (s u t : State) (v : Level), s.upc = { block := .main, pos := 0 } →
    execN i n s = .next u → exec i u = .next t → t.trace = u.trace ++ [.sdaIgnored v] →
    i = .waitAck ∧ s.sdaDir = .input ∧ n = 2 ∧ v = .high

/-- 40_bit_sequencer.md R146: every Sample a command performs happens with SDA released. -/
def Obligations.SamplesOnlyWithSdaReleased : Prop :=
  ∀ (i : Instr) (n : Nat) (s u t : State) (b : Level), s.upc = { block := .main, pos := 0 } →
    execN i n s = .next u → exec i u = .next t → t.trace = u.trace ++ [.sample b] → u.sdaDir = .input

/-- 40_bit_sequencer.md R144: `Drive(SDA, HIGH)` of a WAIT_ACK entered with SDA released leaves the wire alone, the latch
becomes a free value (log entry 6), and the event is SdaIgnored. -/
def Obligations.IgnoredWriteLeavesALatchDraw : Prop :=
  ∀ s : State, s.upc = { block := .main, pos := 2 } → s.sdaDir = .input →
    exec .waitAck s = .next { s with sdaOut := Config.drawLevel s.draws, draws := s.draws + 1,
                                     trace := s.trace ++ [.sdaIgnored .high], upc := { block := .main, pos := 3 } }

/-! ### Receive -/

/-- 43_receive.md R221, R222: ACK from start to end.
(What the internal registers hold after completion: log entry 18.) -/
def Obligations.AckResultState : Prop :=
  ∀ s : State, s.upc = { block := .main, pos := 0 } →
    ∃ u t, execN .ack 6 s = .next u ∧ exec .ack u = .next t ∧
      t = { s with phase := .data, sdaDir := .output, scl := .low, sdaOut := .low, busy := false, upc := t.upc,
                   trace := s.trace ++ ackTrace, time := t.time, draws := t.draws } ∧
      s.time + 4 ≤ t.time ∧ linesWord t = 0x4#32

/-- 43_receive.md R221: every ACK_SEQ, of ACK or of READ_BYTE, from every state, is seven primitives that take at least
4 microseconds, ends with SCL LOW and SDA driven LOW, and holds one clock pulse, its bit LOW and steady, and no condition. -/
def Obligations.AckSeqOnePulse : Prop :=
  ∀ (i : Instr) (s : State),
    (i = .ack ∧ s.upc = { block := .main, pos := 0 } ∨ i = .readByte ∧ s.upc = { block := .main, pos := 41 }) →
    (∃ t, execN i 7 s = .next t ∧ t.scl = .low ∧ t.sdaDir = .output ∧ t.sdaOut = .low ∧
      t.trace = s.trace ++ ackTrace ∧ s.time + 4 ≤ t.time) ∧
    clockPulses (execStates i 7 s) = [{ bit := .low, steady := true }] ∧
    conditionsFrom startCondition 0 (execStates i 7 s) = [] ∧
    conditionsFrom stopCondition 0 (execStates i 7 s) = []

/-- 43_receive.md R223, R224: READ_BYTE in every state and whatever the slave answers: RXDATA is the eight samples, most
significant first.
(What the internal registers hold after completion: log entry 18.) -/
def Obligations.ReadByteResult : Prop :=
  ∀ s : State, s.upc = { block := .main, pos := 0 } →
    ∃ (bits : List Level) (u t : State), bits.length = 8 ∧ execN .readByte 47 s = .next u ∧
      exec .readByte u = .next t ∧
      t = { s with phase := .data, sdaDir := .output, scl := .low, sdaOut := .low, busy := false, acc := t.rxdata,
                   rxdata := t.rxdata, sampled := t.sampled, upc := t.upc, slave := t.slave,
                   trace := s.trace ++ readTrace bits ++ ackTrace, time := t.time, draws := t.draws } ∧
      (∀ k, k < 8 → bits[k]? = some (bit t.rxdata k)) ∧ s.time + 36 ≤ t.time

/-- 43_receive.md R225: a slave that answers the bits of `B`, most significant first, makes READ_BYTE leave RXDATA = B. -/
def Obligations.ReadByteRoundTrip : Prop :=
  ∀ (B : Byte) (rest : List Level) (s : State), s.upc = { block := .main, pos := 0 } →
    s.slave = (List.range 8).map (bit B) ++ rest →
    ∃ t, execN .readByte 48 s = .next t ∧ t.busy = false ∧ t.rxdata = B ∧ t.slave = rest

/-- 10_state.md R55, R57, 43_receive.md R224: RXDATA is written only at READ_BYTE's end: every step before it leaves it. -/
def Obligations.RxdataKeptUntilTheEnd : Prop :=
  ∀ (n : Nat) (s u : State), s.upc = { block := .main, pos := 0 } → n < 48 → execN .readByte n s = .next u →
    u.rxdata = s.rxdata ∧ u.busy = s.busy

/-! ### Write transaction -/

/-- 44_transaction.md R240, R242, R243, R245: WRITE_TXN in every state and whatever the slave answers. The bytes sent are
those TXBUF holds (a byte never written is a free value, log entry 6). Either every frame is acknowledged, frame `j` at
its sample `ks[j]`, and it ends OK; or the frame after `ks.length` acknowledged ones is not, and it ends NO_ACK. While it
runs its phase follows the sub-steps, and it ends IDLE (R241).
(What the internal registers hold after completion: log entry 18.) -/
def Obligations.WriteTxnOutcome : Prop :=
  ∀ (a : Addr7) (len : Len) (s : State), s.upc = { block := .main, pos := 0 } →
    (∃ (bytes : List Byte) (ks : List Nat) (n : Nat) (u t : State),
      bytes.length = len.toNat ∧
      (∀ j b, j < len.toNat → Memory.read s.txbuf j = some b → bytes[j]? = some b) ∧
      (∀ k ∈ ks, 1 ≤ k ∧ k ≤ 100) ∧
      execN (.writeTxn a len) n s = .next u ∧ exec (.writeTxn a len) u = .next t ∧
      t = { s with phase := .idle, sdaDir := .output, scl := .high, sdaOut := .high, busy := false,
                   ackResult := t.ackResult, pollCount := t.pollCount, txnStatus := t.txnStatus,
                   txnIndex := t.txnIndex, shift := t.shift, polls := t.polls, idx := t.idx, upc := t.upc,
                   sampled := t.sampled, slave := t.slave, trace := t.trace, time := t.time, draws := t.draws } ∧
      ((ks.length = len.toNat + 1 ∧ n + 1 = 6 + (ks.map (48 + ·)).sum + 8 ∧
          t.trace = s.trace ++ startTrace ++ framesTrace (((a ++ 0#1) :: bytes).zip ks) ++ stopTrace ∧
          t.txnStatus = .ok ∧ t.txnIndex = 0#16 ∧ t.ackResult = .acked ∧
          ks.getLast? = some t.pollCount.toNat ∧
          s.time + ((14 + 36 * (len.toNat + 1) : Nat) : Rat) ≤ t.time) ∨
        (∃ v, ((a ++ 0#1) :: bytes)[ks.length]? = some v ∧
          n + 1 = 6 + (ks.map (48 + ·)).sum + 42 + 113 ∧
          t.trace = s.trace ++ startTrace ++ framesTrace (((a ++ 0#1) :: bytes).zip ks)
            ++ shiftTrace v ++ timeoutTrace (.sda .high) ∧
          t.ackResult = .timeout ∧ t.pollCount = 100#8 ∧
          (ks.length = 0 → t.txnStatus = .noAckAddress ∧ t.txnIndex = 0#16) ∧
          (ks.length ≠ 0 → t.txnStatus = .noAckData ∧ t.txnIndex.toNat = ks.length - 1)))) ∧
    (s.busy = true → ∀ m u, 0 < m → execN (.writeTxn a len) m s = .next u →
      u.phase = if u.busy then txnPhase u.upc else .idle)

/-- 44_transaction.md R244: a slave that acknowledges the address (at its sample `k0`) and `b0` (at its sample `k1`) but
not `b1` makes a three-byte WRITE_TXN end NO_ACK_DATA with index 1, `b2` never sent, the bus idle. -/
def Obligations.WriteTxnAbort : Prop :=
  ∀ (a : Addr7) (b0 b1 b2 : Byte) (k0 k1 : Nat) (rest : List Level) (s : State),
    s.upc = { block := .main, pos := 0 } → 1 ≤ k0 → k0 ≤ 100 → 1 ≤ k1 → k1 ≤ 100 →
    Memory.read s.txbuf 0 = some b0 → Memory.read s.txbuf 1 = some b1 → Memory.read s.txbuf 2 = some b2 →
    s.slave = List.replicate (k0 - 1) .high ++ [.low] ++ List.replicate (k1 - 1) .high ++ [.low]
      ++ List.replicate 100 .high ++ rest →
    ∃ t, execN (.writeTxn a 3#16) (257 + k0 + k1) s = .next t ∧ t.busy = false ∧ t.txnStatus = .noAckData ∧
      t.txnIndex = 1#16 ∧ Stopped t ∧ busIdle t = true ∧ t.slave = rest ∧
      t.trace = s.trace ++ startTrace ++ shiftTrace (a ++ 0#1) ++ ackedTrace (.sda .high) k0
        ++ shiftTrace b0 ++ ackedTrace (.sda .high) k1 ++ shiftTrace b1 ++ timeoutTrace (.sda .high)

/-! ### Invariants -/

/-- The reset state is sound, whatever TXBUF_SIZE is. -/
def Obligations.ResetIsSound : Prop := State.reset.Inv

/-- Every step, of the engine, of the host, or the reset input, keeps a state sound: TXBUF in canonical form, an admitted
command at one of its primitives, counters and RESULT in range, time at least the trace's bound. -/
def Obligations.StepKeepsSoundness : Prop := ∀ s t : State, s.Inv → step s = .next t → t.Inv

/-- From a sound state no step stops: there is always a next state (40_bit_sequencer.md R141, 60_exceptions.md R260). -/
def Obligations.SoundStateNeverStops : Prop := ∀ s : State, s.Inv → ∃ t, step s = .next t

/-- TXBUF keeps its canonical form at every step, from every state that has it. -/
def Obligations.StepKeepsMemoryCanonical : Prop :=
  ∀ s t : State, s.MemoryOk → step s = .next t → t.MemoryOk

/-- 10_state.md R43: INIT_DONE is cleared by the reset input alone and set by the end of INIT alone. -/
def Obligations.InitDoneChanges : Prop :=
  ∀ s t : State, step s = .next t → t.initDone ≠ s.initDone →
    (s.turns.head? = some .reset ∧ t.initDone = false) ∨
    (s.busy = true ∧ decode s.cmd = .ok .init ∧ t.busy = false ∧ t.initDone = true)

/-- 10_state.md R59, 40_bit_sequencer.md R150, R154, R156: while a command runs, no step but the reset input replaces it or
ends it early: the latched word stays, and BUSY falls only in the engine step of that command's last primitive (that the
word still stands after that step is log entry 18). -/
def Obligations.RunningCommandIsKept : Prop :=
  ∀ s t : State, s.busy = true → s.turns.head? ≠ some .reset → step s = .next t →
    t.cmd = s.cmd ∧
      (t.busy = false → ∃ i e, decode s.cmd = .ok i ∧ atEnd i s.upc ∧ t.trace = s.trace ++ [e])
end

