-- ==== Sys2Proof/Laws/Encoding.lean ====
section
/-! SUPPORT. The fields of a packed command word. -/

namespace Sys2Proof.Laws

variable (len : Len) (r : BitVec 1) (a : BitVec 7) (opc : BitVec 4)

theorem packWord_getLsbD (i : Nat) :
    (packWord len r a opc).getLsbD i =
      if i < 4 then opc.getLsbD i
      else if i < 8 then false
      else if i < 15 then a.getLsbD (i - 8)
      else if i < 16 then r.getLsbD (i - 15)
      else len.getLsbD (i - 16) := by
  unfold packWord
  simp only [BitVec.getLsbD_append, Nat.sub_sub]
  split_ifs <;> first | rfl | omega | simp_all

@[simp] theorem fieldOpc_packWord : fieldOpc (packWord len r a opc) = opc := by
  apply BitVec.eq_of_getLsbD_eq
  intro i hi
  simp only [fieldOpc, BitVec.getLsbD_extractLsb', packWord_getLsbD]
  simp [hi]

@[simp] theorem fieldRsv_packWord : fieldRsv (packWord len r a opc) = 0#4 := by
  apply BitVec.eq_of_getLsbD_eq
  intro i hi
  simp only [fieldRsv, BitVec.getLsbD_extractLsb', packWord_getLsbD]
  simp [show ¬ 4 + i < 4 by omega, show 4 + i < 8 by omega]

@[simp] theorem fieldAddr7_packWord : fieldAddr7 (packWord len r a opc) = a := by
  apply BitVec.eq_of_getLsbD_eq
  intro i hi
  simp only [fieldAddr7, BitVec.getLsbD_extractLsb', packWord_getLsbD]
  simp [hi, show ¬ 8 + i < 4 by omega, show ¬ 8 + i < 8 by omega, show 8 + i < 15 by omega]

@[simp] theorem fieldRw_packWord : fieldRw (packWord len r a opc) = r := by
  apply BitVec.eq_of_getLsbD_eq
  intro i hi
  obtain rfl : i = 0 := by omega
  simp only [fieldRw, BitVec.getLsbD_extractLsb', packWord_getLsbD]
  simp

@[simp] theorem fieldLen_packWord : fieldLen (packWord len r a opc) = len := by
  apply BitVec.eq_of_getLsbD_eq
  intro i hi
  simp only [fieldLen, BitVec.getLsbD_extractLsb', packWord_getLsbD]
  simp [hi, show ¬ 16 + i < 4 by omega, show ¬ 16 + i < 8 by omega, show ¬ 16 + i < 15 by omega]

theorem fieldArg_packWord : fieldArg (packWord len r a opc) = r ++ a := by
  apply BitVec.eq_of_getLsbD_eq
  intro i hi
  simp only [fieldArg, BitVec.getLsbD_extractLsb', packWord_getLsbD, BitVec.getLsbD_append]
  simp only [hi, decide_true, Bool.true_and, show ¬ 8 + i < 4 by omega, show ¬ 8 + i < 8 by omega, if_false,
    show 8 + i < 16 by omega, if_true]
  by_cases h : i < 7
  · simp only [h, show 8 + i < 15 by omega, if_true, show 8 + i - 8 = i by omega]
  · simp only [h, show ¬ 8 + i < 15 by omega, if_false, show 8 + i - 15 = i - 7 by omega]

@[simp] theorem rw_roundTrip (rw : Rw) : Rw.ofBit rw.toBit = rw := by cases rw <;> rfl

@[simp] theorem rw_toBit_ofBit (b : BitVec 1) : (Rw.ofBit b).toBit = b := by revert b; decide

end Sys2Proof.Laws
end

