-- ==== Sys2Proof/Laws/Memory.lean ====
section
/-! SUPPORT. TXBUF: read after write, and the canonical form, which every memory operation keeps. -/

namespace Sys2Proof.Machine.Laws

theorem read_write_same (m : List Host.Cell) (i : Nat) (b : Byte) : Memory.read (Memory.write m i b) i = some b := by
  induction m with
  | nil => simp [Memory.write, Memory.read]
  | cons c cs ih =>
    obtain ⟨j, c⟩ := c
    rcases Nat.lt_trichotomy i j with h | rfl | h
    · simp [Memory.write, Memory.read, h, h.ne]
    · simp [Memory.write, Memory.read]
    · simp [Memory.write, Memory.read, h.ne', Nat.not_lt.mpr h.le, ih]

theorem read_of_lt {size lo : Nat} {m : List Host.Cell} (hm : Memory.wfFrom size lo m = true) {i : Nat} (h : i < lo) :
    Memory.read m i = none := by
  cases m with
  | nil => rfl
  | cons c cs =>
    obtain ⟨j, c⟩ := c
    simp only [Memory.wfFrom, Bool.and_eq_true, decide_eq_true_eq] at hm
    simp [Memory.read, show ¬ i = j by omega, show i < j by omega]

theorem read_write_other {size lo : Nat} {m : List Host.Cell} (hm : Memory.wfFrom size lo m = true) {i k : Nat}
    (b : Byte) (h : k ≠ i) : Memory.read (Memory.write m i b) k = Memory.read m k := by
  induction m generalizing lo with
  | nil => simp [Memory.write, Memory.read, h]
  | cons c cs ih =>
    obtain ⟨j, c⟩ := c
    simp only [Memory.wfFrom, Bool.and_eq_true, decide_eq_true_eq] at hm
    rcases Nat.lt_trichotomy i j with hij | rfl | hij
    · by_cases hki : k < i
      · simp [Memory.write, Memory.read, hij, hij.ne, h, hki, show ¬ k = j by omega, show k < j by omega]
      · simp [Memory.write, Memory.read, hij, hij.ne, h, hki]
    · simp [Memory.write, Memory.read, h]
    · simp [Memory.write, Memory.read, hij.ne', Nat.not_lt.mpr hij.le, ih hm.2]

theorem wfFrom_mono {size lo lo' : Nat} {m : List Host.Cell} (h : lo' ≤ lo) (hm : Memory.wfFrom size lo m = true) :
    Memory.wfFrom size lo' m = true := by
  cases m with
  | nil => rfl
  | cons c cs =>
    simp only [Memory.wfFrom, Bool.and_eq_true, decide_eq_true_eq] at hm ⊢
    exact ⟨⟨by omega, hm.1.2⟩, hm.2⟩

theorem wfFrom_write {size lo : Nat} {m : List Host.Cell} (hm : Memory.wfFrom size lo m = true) {i : Nat} (b : Byte)
    (hlo : lo ≤ i) (hi : i < size) : Memory.wfFrom size lo (Memory.write m i b) = true := by
  induction m generalizing lo with
  | nil => simp [Memory.write, Memory.wfFrom, hlo, hi]
  | cons c cs ih =>
    obtain ⟨j, c⟩ := c
    simp only [Memory.wfFrom, Bool.and_eq_true, decide_eq_true_eq] at hm
    rcases Nat.lt_trichotomy i j with hij | rfl | hij
    · simp [Memory.write, Memory.wfFrom, hij, hij.ne, hlo, hi, hm, show i + 1 ≤ j by omega]
    · simp [Memory.write, Memory.wfFrom, hlo, hi, hm]
    · simp [Memory.write, Memory.wfFrom, hij.ne', Nat.not_lt.mpr hij.le, hm, ih hm.2 (by omega)]

/-- A store inside the buffer keeps the canonical form. -/
theorem wf_write {size : Nat} {m : List Host.Cell} (hm : Memory.wf size m = true) {i : Nat} (b : Byte) (hi : i < size) :
    Memory.wf size (Memory.write m i b) = true := wfFrom_write hm b (Nat.zero_le _) hi

/-- A store of several bytes inside the buffer keeps the canonical form. -/
theorem wf_writeBytes {size : Nat} {m : List Host.Cell} (hm : Memory.wf size m = true) {i : Nat} (bs : List Byte)
    (hi : i + bs.length ≤ size) : Memory.wf size (Memory.writeBytes m i bs) = true := by
  induction bs generalizing m i with
  | nil => exact hm
  | cons b bs ih =>
    simp only [List.length_cons] at hi
    exact ih (wf_write hm b (by omega)) (by omega)

/-- A byte outside the stored range reads as before. -/
theorem read_writeBytes_outside {size : Nat} {m : List Host.Cell} (hm : Memory.wf size m = true) {i k : Nat}
    (bs : List Byte) (hi : i + bs.length ≤ size) (hk : k < i ∨ i + bs.length ≤ k) :
    Memory.read (Memory.writeBytes m i bs) k = Memory.read m k := by
  induction bs generalizing m i with
  | nil => rfl
  | cons b bs ih =>
    simp only [List.length_cons] at hi hk
    rw [Memory.writeBytes, ih (wf_write hm b (by omega)) (by omega) (by omega),
      read_write_other hm b (by omega)]

/-- A byte of the stored range reads as stored. -/
theorem read_writeBytes_inside {size : Nat} {m : List Host.Cell} (hm : Memory.wf size m = true) {i k : Nat}
    (bs : List Byte) (hi : i + bs.length ≤ size) (hk : k < bs.length) :
    Memory.read (Memory.writeBytes m i bs) (i + k) = some bs[k] := by
  induction bs generalizing m i k with
  | nil => simp at hk
  | cons b bs ih =>
    simp only [List.length_cons] at hi hk
    have hw := wf_write hm (i := i) b (by omega)
    cases k with
    | zero =>
      rw [Memory.writeBytes, read_writeBytes_outside hw bs (by omega) (by omega)]
      exact read_write_same m i b
    | succ k =>
      rw [Memory.writeBytes, show i + (k + 1) = i + 1 + k by omega, ih hw (by omega) (by omega)]
      rfl

/-- The reset state's TXBUF is in canonical form. -/
theorem wf_reset : Memory.wf State.reset.txbufSize State.reset.txbuf = true := rfl

end Sys2Proof.Machine.Laws
end

