-- ==== Sys2Proof/Laws/State.lean ====
section
/-! SUPPORT. What each named update of the state makes of each field: one lemma per field per update. -/

namespace Sys2Proof.Machine.Laws

variable (s : State)

/-! ### `drawn` -/

@[simp] theorem drawn_scl : s.drawn.scl = s.scl := rfl
@[simp] theorem drawn_sdaDir : s.drawn.sdaDir = s.sdaDir := rfl
@[simp] theorem drawn_sdaOut : s.drawn.sdaOut = s.sdaOut := rfl
@[simp] theorem drawn_phase : s.drawn.phase = s.phase := rfl
@[simp] theorem drawn_initDone : s.drawn.initDone = s.initDone := rfl
@[simp] theorem drawn_busy : s.drawn.busy = s.busy := rfl
@[simp] theorem drawn_errIllegal : s.drawn.errIllegal = s.errIllegal := rfl
@[simp] theorem drawn_errOverrun : s.drawn.errOverrun = s.errOverrun := rfl
@[simp] theorem drawn_errNoinit : s.drawn.errNoinit = s.errNoinit := rfl
@[simp] theorem drawn_errLen : s.drawn.errLen = s.errLen := rfl
@[simp] theorem drawn_ackResult : s.drawn.ackResult = s.ackResult := rfl
@[simp] theorem drawn_pollCount : s.drawn.pollCount = s.pollCount := rfl
@[simp] theorem drawn_txnStatus : s.drawn.txnStatus = s.txnStatus := rfl
@[simp] theorem drawn_txnIndex : s.drawn.txnIndex = s.txnIndex := rfl
@[simp] theorem drawn_rxdata : s.drawn.rxdata = s.rxdata := rfl
@[simp] theorem drawn_shift : s.drawn.shift = s.shift := rfl
@[simp] theorem drawn_acc : s.drawn.acc = s.acc := rfl
@[simp] theorem drawn_cmd : s.drawn.cmd = s.cmd := rfl
@[simp] theorem drawn_polls : s.drawn.polls = s.polls := rfl
@[simp] theorem drawn_idx : s.drawn.idx = s.idx := rfl
@[simp] theorem drawn_upc : s.drawn.upc = s.upc := rfl
@[simp] theorem drawn_sampled : s.drawn.sampled = s.sampled := rfl
@[simp] theorem drawn_txbufSize : s.drawn.txbufSize = s.txbufSize := rfl
@[simp] theorem drawn_txbuf : s.drawn.txbuf = s.txbuf := rfl
@[simp] theorem drawn_trace : s.drawn.trace = s.trace := rfl
@[simp] theorem drawn_time : s.drawn.time = s.time := rfl
@[simp] theorem drawn_busErrors : s.drawn.busErrors = s.busErrors := rfl
@[simp] theorem drawn_hostReads : s.drawn.hostReads = s.hostReads := rfl
@[simp] theorem drawn_hostProg : s.drawn.hostProg = s.hostProg := rfl
@[simp] theorem drawn_slave : s.drawn.slave = s.slave := rfl
@[simp] theorem drawn_turns : s.drawn.turns = s.turns := rfl
@[simp] theorem drawn_lead : s.drawn.lead = s.lead := rfl
@[simp] theorem drawn_draws : s.drawn.draws = s.draws + 1 := rfl

/-! ### `emit` -/

@[simp] theorem emit_scl (e : Event) : (State.emit e s).scl = s.scl := rfl
@[simp] theorem emit_sdaDir (e : Event) : (State.emit e s).sdaDir = s.sdaDir := rfl
@[simp] theorem emit_sdaOut (e : Event) : (State.emit e s).sdaOut = s.sdaOut := rfl
@[simp] theorem emit_phase (e : Event) : (State.emit e s).phase = s.phase := rfl
@[simp] theorem emit_initDone (e : Event) : (State.emit e s).initDone = s.initDone := rfl
@[simp] theorem emit_busy (e : Event) : (State.emit e s).busy = s.busy := rfl
@[simp] theorem emit_errIllegal (e : Event) : (State.emit e s).errIllegal = s.errIllegal := rfl
@[simp] theorem emit_errOverrun (e : Event) : (State.emit e s).errOverrun = s.errOverrun := rfl
@[simp] theorem emit_errNoinit (e : Event) : (State.emit e s).errNoinit = s.errNoinit := rfl
@[simp] theorem emit_errLen (e : Event) : (State.emit e s).errLen = s.errLen := rfl
@[simp] theorem emit_ackResult (e : Event) : (State.emit e s).ackResult = s.ackResult := rfl
@[simp] theorem emit_pollCount (e : Event) : (State.emit e s).pollCount = s.pollCount := rfl
@[simp] theorem emit_txnStatus (e : Event) : (State.emit e s).txnStatus = s.txnStatus := rfl
@[simp] theorem emit_txnIndex (e : Event) : (State.emit e s).txnIndex = s.txnIndex := rfl
@[simp] theorem emit_rxdata (e : Event) : (State.emit e s).rxdata = s.rxdata := rfl
@[simp] theorem emit_shift (e : Event) : (State.emit e s).shift = s.shift := rfl
@[simp] theorem emit_acc (e : Event) : (State.emit e s).acc = s.acc := rfl
@[simp] theorem emit_cmd (e : Event) : (State.emit e s).cmd = s.cmd := rfl
@[simp] theorem emit_polls (e : Event) : (State.emit e s).polls = s.polls := rfl
@[simp] theorem emit_idx (e : Event) : (State.emit e s).idx = s.idx := rfl
@[simp] theorem emit_upc (e : Event) : (State.emit e s).upc = s.upc := rfl
@[simp] theorem emit_sampled (e : Event) : (State.emit e s).sampled = s.sampled := rfl
@[simp] theorem emit_txbufSize (e : Event) : (State.emit e s).txbufSize = s.txbufSize := rfl
@[simp] theorem emit_txbuf (e : Event) : (State.emit e s).txbuf = s.txbuf := rfl
@[simp] theorem emit_trace (e : Event) : (State.emit e s).trace = s.trace ++ [e] := rfl
@[simp] theorem emit_time (e : Event) : (State.emit e s).time = s.time := rfl
@[simp] theorem emit_busErrors (e : Event) : (State.emit e s).busErrors = s.busErrors := rfl
@[simp] theorem emit_hostReads (e : Event) : (State.emit e s).hostReads = s.hostReads := rfl
@[simp] theorem emit_hostProg (e : Event) : (State.emit e s).hostProg = s.hostProg := rfl
@[simp] theorem emit_slave (e : Event) : (State.emit e s).slave = s.slave := rfl
@[simp] theorem emit_turns (e : Event) : (State.emit e s).turns = s.turns := rfl
@[simp] theorem emit_lead (e : Event) : (State.emit e s).lead = s.lead := rfl
@[simp] theorem emit_draws (e : Event) : (State.emit e s).draws = s.draws := rfl

/-! ### `elapse` -/

@[simp] theorem elapse_scl (b : Rat) : (State.elapse b s).scl = s.scl := rfl
@[simp] theorem elapse_sdaDir (b : Rat) : (State.elapse b s).sdaDir = s.sdaDir := rfl
@[simp] theorem elapse_sdaOut (b : Rat) : (State.elapse b s).sdaOut = s.sdaOut := rfl
@[simp] theorem elapse_phase (b : Rat) : (State.elapse b s).phase = s.phase := rfl
@[simp] theorem elapse_initDone (b : Rat) : (State.elapse b s).initDone = s.initDone := rfl
@[simp] theorem elapse_busy (b : Rat) : (State.elapse b s).busy = s.busy := rfl
@[simp] theorem elapse_errIllegal (b : Rat) : (State.elapse b s).errIllegal = s.errIllegal := rfl
@[simp] theorem elapse_errOverrun (b : Rat) : (State.elapse b s).errOverrun = s.errOverrun := rfl
@[simp] theorem elapse_errNoinit (b : Rat) : (State.elapse b s).errNoinit = s.errNoinit := rfl
@[simp] theorem elapse_errLen (b : Rat) : (State.elapse b s).errLen = s.errLen := rfl
@[simp] theorem elapse_ackResult (b : Rat) : (State.elapse b s).ackResult = s.ackResult := rfl
@[simp] theorem elapse_pollCount (b : Rat) : (State.elapse b s).pollCount = s.pollCount := rfl
@[simp] theorem elapse_txnStatus (b : Rat) : (State.elapse b s).txnStatus = s.txnStatus := rfl
@[simp] theorem elapse_txnIndex (b : Rat) : (State.elapse b s).txnIndex = s.txnIndex := rfl
@[simp] theorem elapse_rxdata (b : Rat) : (State.elapse b s).rxdata = s.rxdata := rfl
@[simp] theorem elapse_shift (b : Rat) : (State.elapse b s).shift = s.shift := rfl
@[simp] theorem elapse_acc (b : Rat) : (State.elapse b s).acc = s.acc := rfl
@[simp] theorem elapse_cmd (b : Rat) : (State.elapse b s).cmd = s.cmd := rfl
@[simp] theorem elapse_polls (b : Rat) : (State.elapse b s).polls = s.polls := rfl
@[simp] theorem elapse_idx (b : Rat) : (State.elapse b s).idx = s.idx := rfl
@[simp] theorem elapse_upc (b : Rat) : (State.elapse b s).upc = s.upc := rfl
@[simp] theorem elapse_sampled (b : Rat) : (State.elapse b s).sampled = s.sampled := rfl
@[simp] theorem elapse_txbufSize (b : Rat) : (State.elapse b s).txbufSize = s.txbufSize := rfl
@[simp] theorem elapse_txbuf (b : Rat) : (State.elapse b s).txbuf = s.txbuf := rfl
@[simp] theorem elapse_trace (b : Rat) : (State.elapse b s).trace = s.trace := rfl
@[simp] theorem elapse_time (b : Rat) : (State.elapse b s).time = s.time + (b + (Config.excess s.draws : Rat)) := rfl
@[simp] theorem elapse_busErrors (b : Rat) : (State.elapse b s).busErrors = s.busErrors := rfl
@[simp] theorem elapse_hostReads (b : Rat) : (State.elapse b s).hostReads = s.hostReads := rfl
@[simp] theorem elapse_hostProg (b : Rat) : (State.elapse b s).hostProg = s.hostProg := rfl
@[simp] theorem elapse_slave (b : Rat) : (State.elapse b s).slave = s.slave := rfl
@[simp] theorem elapse_turns (b : Rat) : (State.elapse b s).turns = s.turns := rfl
@[simp] theorem elapse_lead (b : Rat) : (State.elapse b s).lead = s.lead := rfl
@[simp] theorem elapse_draws (b : Rat) : (State.elapse b s).draws = s.draws := rfl

/-! ### `advance` -/

@[simp] theorem advance_scl : (advance s).scl = s.scl := rfl
@[simp] theorem advance_sdaDir : (advance s).sdaDir = s.sdaDir := rfl
@[simp] theorem advance_sdaOut : (advance s).sdaOut = s.sdaOut := rfl
@[simp] theorem advance_phase : (advance s).phase = s.phase := rfl
@[simp] theorem advance_initDone : (advance s).initDone = s.initDone := rfl
@[simp] theorem advance_busy : (advance s).busy = s.busy := rfl
@[simp] theorem advance_errIllegal : (advance s).errIllegal = s.errIllegal := rfl
@[simp] theorem advance_errOverrun : (advance s).errOverrun = s.errOverrun := rfl
@[simp] theorem advance_errNoinit : (advance s).errNoinit = s.errNoinit := rfl
@[simp] theorem advance_errLen : (advance s).errLen = s.errLen := rfl
@[simp] theorem advance_ackResult : (advance s).ackResult = s.ackResult := rfl
@[simp] theorem advance_pollCount : (advance s).pollCount = s.pollCount := rfl
@[simp] theorem advance_txnStatus : (advance s).txnStatus = s.txnStatus := rfl
@[simp] theorem advance_txnIndex : (advance s).txnIndex = s.txnIndex := rfl
@[simp] theorem advance_rxdata : (advance s).rxdata = s.rxdata := rfl
@[simp] theorem advance_shift : (advance s).shift = s.shift := rfl
@[simp] theorem advance_acc : (advance s).acc = s.acc := rfl
@[simp] theorem advance_cmd : (advance s).cmd = s.cmd := rfl
@[simp] theorem advance_polls : (advance s).polls = s.polls := rfl
@[simp] theorem advance_idx : (advance s).idx = s.idx := rfl
@[simp] theorem advance_upc : (advance s).upc = { s.upc with pos := s.upc.pos + 1 } := rfl
@[simp] theorem advance_sampled : (advance s).sampled = s.sampled := rfl
@[simp] theorem advance_txbufSize : (advance s).txbufSize = s.txbufSize := rfl
@[simp] theorem advance_txbuf : (advance s).txbuf = s.txbuf := rfl
@[simp] theorem advance_trace : (advance s).trace = s.trace := rfl
@[simp] theorem advance_time : (advance s).time = s.time := rfl
@[simp] theorem advance_busErrors : (advance s).busErrors = s.busErrors := rfl
@[simp] theorem advance_hostReads : (advance s).hostReads = s.hostReads := rfl
@[simp] theorem advance_hostProg : (advance s).hostProg = s.hostProg := rfl
@[simp] theorem advance_slave : (advance s).slave = s.slave := rfl
@[simp] theorem advance_turns : (advance s).turns = s.turns := rfl
@[simp] theorem advance_lead : (advance s).lead = s.lead := rfl
@[simp] theorem advance_draws : (advance s).draws = s.draws := rfl

/-! ### `goto` -/

@[simp] theorem goto_scl (b : Block) : (goto b s).scl = s.scl := rfl
@[simp] theorem goto_sdaDir (b : Block) : (goto b s).sdaDir = s.sdaDir := rfl
@[simp] theorem goto_sdaOut (b : Block) : (goto b s).sdaOut = s.sdaOut := rfl
@[simp] theorem goto_phase (b : Block) : (goto b s).phase = s.phase := rfl
@[simp] theorem goto_initDone (b : Block) : (goto b s).initDone = s.initDone := rfl
@[simp] theorem goto_busy (b : Block) : (goto b s).busy = s.busy := rfl
@[simp] theorem goto_errIllegal (b : Block) : (goto b s).errIllegal = s.errIllegal := rfl
@[simp] theorem goto_errOverrun (b : Block) : (goto b s).errOverrun = s.errOverrun := rfl
@[simp] theorem goto_errNoinit (b : Block) : (goto b s).errNoinit = s.errNoinit := rfl
@[simp] theorem goto_errLen (b : Block) : (goto b s).errLen = s.errLen := rfl
@[simp] theorem goto_ackResult (b : Block) : (goto b s).ackResult = s.ackResult := rfl
@[simp] theorem goto_pollCount (b : Block) : (goto b s).pollCount = s.pollCount := rfl
@[simp] theorem goto_txnStatus (b : Block) : (goto b s).txnStatus = s.txnStatus := rfl
@[simp] theorem goto_txnIndex (b : Block) : (goto b s).txnIndex = s.txnIndex := rfl
@[simp] theorem goto_rxdata (b : Block) : (goto b s).rxdata = s.rxdata := rfl
@[simp] theorem goto_shift (b : Block) : (goto b s).shift = s.shift := rfl
@[simp] theorem goto_acc (b : Block) : (goto b s).acc = s.acc := rfl
@[simp] theorem goto_cmd (b : Block) : (goto b s).cmd = s.cmd := rfl
@[simp] theorem goto_polls (b : Block) : (goto b s).polls = s.polls := rfl
@[simp] theorem goto_idx (b : Block) : (goto b s).idx = s.idx := rfl
@[simp] theorem goto_upc (b : Block) : (goto b s).upc = { block := b, pos := 0 } := rfl
@[simp] theorem goto_sampled (b : Block) : (goto b s).sampled = s.sampled := rfl
@[simp] theorem goto_txbufSize (b : Block) : (goto b s).txbufSize = s.txbufSize := rfl
@[simp] theorem goto_txbuf (b : Block) : (goto b s).txbuf = s.txbuf := rfl
@[simp] theorem goto_trace (b : Block) : (goto b s).trace = s.trace := rfl
@[simp] theorem goto_time (b : Block) : (goto b s).time = s.time := rfl
@[simp] theorem goto_busErrors (b : Block) : (goto b s).busErrors = s.busErrors := rfl
@[simp] theorem goto_hostReads (b : Block) : (goto b s).hostReads = s.hostReads := rfl
@[simp] theorem goto_hostProg (b : Block) : (goto b s).hostProg = s.hostProg := rfl
@[simp] theorem goto_slave (b : Block) : (goto b s).slave = s.slave := rfl
@[simp] theorem goto_turns (b : Block) : (goto b s).turns = s.turns := rfl
@[simp] theorem goto_lead (b : Block) : (goto b s).lead = s.lead := rfl
@[simp] theorem goto_draws (b : Block) : (goto b s).draws = s.draws := rfl

/-! ### `accept` -/

@[simp] theorem accept_scl (w : Word) : (accept w s).scl = s.scl := rfl
@[simp] theorem accept_sdaDir (w : Word) : (accept w s).sdaDir = s.sdaDir := rfl
@[simp] theorem accept_sdaOut (w : Word) : (accept w s).sdaOut = s.sdaOut := rfl
@[simp] theorem accept_phase (w : Word) : (accept w s).phase = s.phase := rfl
@[simp] theorem accept_initDone (w : Word) : (accept w s).initDone = s.initDone := rfl
@[simp] theorem accept_busy (w : Word) : (accept w s).busy = true := rfl
@[simp] theorem accept_errIllegal (w : Word) : (accept w s).errIllegal = s.errIllegal := rfl
@[simp] theorem accept_errOverrun (w : Word) : (accept w s).errOverrun = s.errOverrun := rfl
@[simp] theorem accept_errNoinit (w : Word) : (accept w s).errNoinit = s.errNoinit := rfl
@[simp] theorem accept_errLen (w : Word) : (accept w s).errLen = s.errLen := rfl
@[simp] theorem accept_ackResult (w : Word) : (accept w s).ackResult = s.ackResult := rfl
@[simp] theorem accept_pollCount (w : Word) : (accept w s).pollCount = s.pollCount := rfl
@[simp] theorem accept_txnStatus (w : Word) : (accept w s).txnStatus = s.txnStatus := rfl
@[simp] theorem accept_txnIndex (w : Word) : (accept w s).txnIndex = s.txnIndex := rfl
@[simp] theorem accept_rxdata (w : Word) : (accept w s).rxdata = s.rxdata := rfl
@[simp] theorem accept_shift (w : Word) : (accept w s).shift = s.shift := rfl
@[simp] theorem accept_acc (w : Word) : (accept w s).acc = s.acc := rfl
@[simp] theorem accept_cmd (w : Word) : (accept w s).cmd = w := rfl
@[simp] theorem accept_polls (w : Word) : (accept w s).polls = s.polls := rfl
@[simp] theorem accept_idx (w : Word) : (accept w s).idx = s.idx := rfl
@[simp] theorem accept_upc (w : Word) : (accept w s).upc = Upc.first := rfl
@[simp] theorem accept_sampled (w : Word) : (accept w s).sampled = s.sampled := rfl
@[simp] theorem accept_txbufSize (w : Word) : (accept w s).txbufSize = s.txbufSize := rfl
@[simp] theorem accept_txbuf (w : Word) : (accept w s).txbuf = s.txbuf := rfl
@[simp] theorem accept_trace (w : Word) : (accept w s).trace = s.trace := rfl
@[simp] theorem accept_time (w : Word) : (accept w s).time = s.time := rfl
@[simp] theorem accept_busErrors (w : Word) : (accept w s).busErrors = s.busErrors := rfl
@[simp] theorem accept_hostReads (w : Word) : (accept w s).hostReads = s.hostReads := rfl
@[simp] theorem accept_hostProg (w : Word) : (accept w s).hostProg = s.hostProg := rfl
@[simp] theorem accept_slave (w : Word) : (accept w s).slave = s.slave := rfl
@[simp] theorem accept_turns (w : Word) : (accept w s).turns = s.turns := rfl
@[simp] theorem accept_lead (w : Word) : (accept w s).lead = s.lead := rfl
@[simp] theorem accept_draws (w : Word) : (accept w s).draws = s.draws := rfl

/-! ### `hostAdvance` -/

@[simp] theorem hostAdvance_scl : (hostAdvance s).scl = s.scl := rfl
@[simp] theorem hostAdvance_sdaDir : (hostAdvance s).sdaDir = s.sdaDir := rfl
@[simp] theorem hostAdvance_sdaOut : (hostAdvance s).sdaOut = s.sdaOut := rfl
@[simp] theorem hostAdvance_phase : (hostAdvance s).phase = s.phase := rfl
@[simp] theorem hostAdvance_initDone : (hostAdvance s).initDone = s.initDone := rfl
@[simp] theorem hostAdvance_busy : (hostAdvance s).busy = s.busy := rfl
@[simp] theorem hostAdvance_errIllegal : (hostAdvance s).errIllegal = s.errIllegal := rfl
@[simp] theorem hostAdvance_errOverrun : (hostAdvance s).errOverrun = s.errOverrun := rfl
@[simp] theorem hostAdvance_errNoinit : (hostAdvance s).errNoinit = s.errNoinit := rfl
@[simp] theorem hostAdvance_errLen : (hostAdvance s).errLen = s.errLen := rfl
@[simp] theorem hostAdvance_ackResult : (hostAdvance s).ackResult = s.ackResult := rfl
@[simp] theorem hostAdvance_pollCount : (hostAdvance s).pollCount = s.pollCount := rfl
@[simp] theorem hostAdvance_txnStatus : (hostAdvance s).txnStatus = s.txnStatus := rfl
@[simp] theorem hostAdvance_txnIndex : (hostAdvance s).txnIndex = s.txnIndex := rfl
@[simp] theorem hostAdvance_rxdata : (hostAdvance s).rxdata = s.rxdata := rfl
@[simp] theorem hostAdvance_shift : (hostAdvance s).shift = s.shift := rfl
@[simp] theorem hostAdvance_acc : (hostAdvance s).acc = s.acc := rfl
@[simp] theorem hostAdvance_cmd : (hostAdvance s).cmd = s.cmd := rfl
@[simp] theorem hostAdvance_polls : (hostAdvance s).polls = s.polls := rfl
@[simp] theorem hostAdvance_idx : (hostAdvance s).idx = s.idx := rfl
@[simp] theorem hostAdvance_upc : (hostAdvance s).upc = s.upc := rfl
@[simp] theorem hostAdvance_sampled : (hostAdvance s).sampled = s.sampled := rfl
@[simp] theorem hostAdvance_txbufSize : (hostAdvance s).txbufSize = s.txbufSize := rfl
@[simp] theorem hostAdvance_txbuf : (hostAdvance s).txbuf = s.txbuf := rfl
@[simp] theorem hostAdvance_trace : (hostAdvance s).trace = s.trace := rfl
@[simp] theorem hostAdvance_time : (hostAdvance s).time = s.time := rfl
@[simp] theorem hostAdvance_busErrors : (hostAdvance s).busErrors = s.busErrors := rfl
@[simp] theorem hostAdvance_hostReads : (hostAdvance s).hostReads = s.hostReads := rfl
@[simp] theorem hostAdvance_hostProg : (hostAdvance s).hostProg = s.hostProg.tail := rfl
@[simp] theorem hostAdvance_slave : (hostAdvance s).slave = s.slave := rfl
@[simp] theorem hostAdvance_turns : (hostAdvance s).turns = s.turns := rfl
@[simp] theorem hostAdvance_lead : (hostAdvance s).lead = s.lead := rfl
@[simp] theorem hostAdvance_draws : (hostAdvance s).draws = s.draws := rfl

/-! ### `busError` -/

@[simp] theorem busError_scl (off : Offset) (size : Size) : (busError off size s).scl = s.scl := rfl
@[simp] theorem busError_sdaDir (off : Offset) (size : Size) : (busError off size s).sdaDir = s.sdaDir := rfl
@[simp] theorem busError_sdaOut (off : Offset) (size : Size) : (busError off size s).sdaOut = s.sdaOut := rfl
@[simp] theorem busError_phase (off : Offset) (size : Size) : (busError off size s).phase = s.phase := rfl
@[simp] theorem busError_initDone (off : Offset) (size : Size) : (busError off size s).initDone = s.initDone := rfl
@[simp] theorem busError_busy (off : Offset) (size : Size) : (busError off size s).busy = s.busy := rfl
@[simp] theorem busError_errIllegal (off : Offset) (size : Size) : (busError off size s).errIllegal = s.errIllegal := rfl
@[simp] theorem busError_errOverrun (off : Offset) (size : Size) : (busError off size s).errOverrun = s.errOverrun := rfl
@[simp] theorem busError_errNoinit (off : Offset) (size : Size) : (busError off size s).errNoinit = s.errNoinit := rfl
@[simp] theorem busError_errLen (off : Offset) (size : Size) : (busError off size s).errLen = s.errLen := rfl
@[simp] theorem busError_ackResult (off : Offset) (size : Size) : (busError off size s).ackResult = s.ackResult := rfl
@[simp] theorem busError_pollCount (off : Offset) (size : Size) : (busError off size s).pollCount = s.pollCount := rfl
@[simp] theorem busError_txnStatus (off : Offset) (size : Size) : (busError off size s).txnStatus = s.txnStatus := rfl
@[simp] theorem busError_txnIndex (off : Offset) (size : Size) : (busError off size s).txnIndex = s.txnIndex := rfl
@[simp] theorem busError_rxdata (off : Offset) (size : Size) : (busError off size s).rxdata = s.rxdata := rfl
@[simp] theorem busError_shift (off : Offset) (size : Size) : (busError off size s).shift = s.shift := rfl
@[simp] theorem busError_acc (off : Offset) (size : Size) : (busError off size s).acc = s.acc := rfl
@[simp] theorem busError_cmd (off : Offset) (size : Size) : (busError off size s).cmd = s.cmd := rfl
@[simp] theorem busError_polls (off : Offset) (size : Size) : (busError off size s).polls = s.polls := rfl
@[simp] theorem busError_idx (off : Offset) (size : Size) : (busError off size s).idx = s.idx := rfl
@[simp] theorem busError_upc (off : Offset) (size : Size) : (busError off size s).upc = s.upc := rfl
@[simp] theorem busError_sampled (off : Offset) (size : Size) : (busError off size s).sampled = s.sampled := rfl
@[simp] theorem busError_txbufSize (off : Offset) (size : Size) : (busError off size s).txbufSize = s.txbufSize := rfl
@[simp] theorem busError_txbuf (off : Offset) (size : Size) : (busError off size s).txbuf = s.txbuf := rfl
@[simp] theorem busError_trace (off : Offset) (size : Size) : (busError off size s).trace = s.trace := rfl
@[simp] theorem busError_time (off : Offset) (size : Size) : (busError off size s).time = s.time := rfl
@[simp] theorem busError_busErrors (off : Offset) (size : Size) : (busError off size s).busErrors = s.busErrors ++ [{ off := off, size := size }] := rfl
@[simp] theorem busError_hostReads (off : Offset) (size : Size) : (busError off size s).hostReads = s.hostReads := rfl
@[simp] theorem busError_hostProg (off : Offset) (size : Size) : (busError off size s).hostProg = s.hostProg := rfl
@[simp] theorem busError_slave (off : Offset) (size : Size) : (busError off size s).slave = s.slave := rfl
@[simp] theorem busError_turns (off : Offset) (size : Size) : (busError off size s).turns = s.turns := rfl
@[simp] theorem busError_lead (off : Offset) (size : Size) : (busError off size s).lead = s.lead := rfl
@[simp] theorem busError_draws (off : Offset) (size : Size) : (busError off size s).draws = s.draws := rfl

/-! ### `setErr` -/

@[simp] theorem setErr_scl (e : ErrBit) : (setErr e s).scl = s.scl := rfl
@[simp] theorem setErr_sdaDir (e : ErrBit) : (setErr e s).sdaDir = s.sdaDir := rfl
@[simp] theorem setErr_sdaOut (e : ErrBit) : (setErr e s).sdaOut = s.sdaOut := rfl
@[simp] theorem setErr_phase (e : ErrBit) : (setErr e s).phase = s.phase := rfl
@[simp] theorem setErr_initDone (e : ErrBit) : (setErr e s).initDone = s.initDone := rfl
@[simp] theorem setErr_busy (e : ErrBit) : (setErr e s).busy = s.busy := rfl
@[simp] theorem setErr_errIllegal (e : ErrBit) : (setErr e s).errIllegal = errAfter s.errIllegal false (e == .illegal) := rfl
@[simp] theorem setErr_errOverrun (e : ErrBit) : (setErr e s).errOverrun = errAfter s.errOverrun false (e == .overrun) := rfl
@[simp] theorem setErr_errNoinit (e : ErrBit) : (setErr e s).errNoinit = errAfter s.errNoinit false (e == .noinit) := rfl
@[simp] theorem setErr_errLen (e : ErrBit) : (setErr e s).errLen = errAfter s.errLen false (e == .len) := rfl
@[simp] theorem setErr_ackResult (e : ErrBit) : (setErr e s).ackResult = s.ackResult := rfl
@[simp] theorem setErr_pollCount (e : ErrBit) : (setErr e s).pollCount = s.pollCount := rfl
@[simp] theorem setErr_txnStatus (e : ErrBit) : (setErr e s).txnStatus = s.txnStatus := rfl
@[simp] theorem setErr_txnIndex (e : ErrBit) : (setErr e s).txnIndex = s.txnIndex := rfl
@[simp] theorem setErr_rxdata (e : ErrBit) : (setErr e s).rxdata = s.rxdata := rfl
@[simp] theorem setErr_shift (e : ErrBit) : (setErr e s).shift = s.shift := rfl
@[simp] theorem setErr_acc (e : ErrBit) : (setErr e s).acc = s.acc := rfl
@[simp] theorem setErr_cmd (e : ErrBit) : (setErr e s).cmd = s.cmd := rfl
@[simp] theorem setErr_polls (e : ErrBit) : (setErr e s).polls = s.polls := rfl
@[simp] theorem setErr_idx (e : ErrBit) : (setErr e s).idx = s.idx := rfl
@[simp] theorem setErr_upc (e : ErrBit) : (setErr e s).upc = s.upc := rfl
@[simp] theorem setErr_sampled (e : ErrBit) : (setErr e s).sampled = s.sampled := rfl
@[simp] theorem setErr_txbufSize (e : ErrBit) : (setErr e s).txbufSize = s.txbufSize := rfl
@[simp] theorem setErr_txbuf (e : ErrBit) : (setErr e s).txbuf = s.txbuf := rfl
@[simp] theorem setErr_trace (e : ErrBit) : (setErr e s).trace = s.trace := rfl
@[simp] theorem setErr_time (e : ErrBit) : (setErr e s).time = s.time := rfl
@[simp] theorem setErr_busErrors (e : ErrBit) : (setErr e s).busErrors = s.busErrors := rfl
@[simp] theorem setErr_hostReads (e : ErrBit) : (setErr e s).hostReads = s.hostReads := rfl
@[simp] theorem setErr_hostProg (e : ErrBit) : (setErr e s).hostProg = s.hostProg := rfl
@[simp] theorem setErr_slave (e : ErrBit) : (setErr e s).slave = s.slave := rfl
@[simp] theorem setErr_turns (e : ErrBit) : (setErr e s).turns = s.turns := rfl
@[simp] theorem setErr_lead (e : ErrBit) : (setErr e s).lead = s.lead := rfl
@[simp] theorem setErr_draws (e : ErrBit) : (setErr e s).draws = s.draws := rfl

/-! ### `clearErrs` -/

@[simp] theorem clearErrs_scl (w : Word) : (clearErrs w s).scl = s.scl := rfl
@[simp] theorem clearErrs_sdaDir (w : Word) : (clearErrs w s).sdaDir = s.sdaDir := rfl
@[simp] theorem clearErrs_sdaOut (w : Word) : (clearErrs w s).sdaOut = s.sdaOut := rfl
@[simp] theorem clearErrs_phase (w : Word) : (clearErrs w s).phase = s.phase := rfl
@[simp] theorem clearErrs_initDone (w : Word) : (clearErrs w s).initDone = s.initDone := rfl
@[simp] theorem clearErrs_busy (w : Word) : (clearErrs w s).busy = s.busy := rfl
@[simp] theorem clearErrs_errIllegal (w : Word) : (clearErrs w s).errIllegal = errAfter s.errIllegal (w.getLsbD 2) false := rfl
@[simp] theorem clearErrs_errOverrun (w : Word) : (clearErrs w s).errOverrun = errAfter s.errOverrun (w.getLsbD 3) false := rfl
@[simp] theorem clearErrs_errNoinit (w : Word) : (clearErrs w s).errNoinit = errAfter s.errNoinit (w.getLsbD 4) false := rfl
@[simp] theorem clearErrs_errLen (w : Word) : (clearErrs w s).errLen = errAfter s.errLen (w.getLsbD 5) false := rfl
@[simp] theorem clearErrs_ackResult (w : Word) : (clearErrs w s).ackResult = s.ackResult := rfl
@[simp] theorem clearErrs_pollCount (w : Word) : (clearErrs w s).pollCount = s.pollCount := rfl
@[simp] theorem clearErrs_txnStatus (w : Word) : (clearErrs w s).txnStatus = s.txnStatus := rfl
@[simp] theorem clearErrs_txnIndex (w : Word) : (clearErrs w s).txnIndex = s.txnIndex := rfl
@[simp] theorem clearErrs_rxdata (w : Word) : (clearErrs w s).rxdata = s.rxdata := rfl
@[simp] theorem clearErrs_shift (w : Word) : (clearErrs w s).shift = s.shift := rfl
@[simp] theorem clearErrs_acc (w : Word) : (clearErrs w s).acc = s.acc := rfl
@[simp] theorem clearErrs_cmd (w : Word) : (clearErrs w s).cmd = s.cmd := rfl
@[simp] theorem clearErrs_polls (w : Word) : (clearErrs w s).polls = s.polls := rfl
@[simp] theorem clearErrs_idx (w : Word) : (clearErrs w s).idx = s.idx := rfl
@[simp] theorem clearErrs_upc (w : Word) : (clearErrs w s).upc = s.upc := rfl
@[simp] theorem clearErrs_sampled (w : Word) : (clearErrs w s).sampled = s.sampled := rfl
@[simp] theorem clearErrs_txbufSize (w : Word) : (clearErrs w s).txbufSize = s.txbufSize := rfl
@[simp] theorem clearErrs_txbuf (w : Word) : (clearErrs w s).txbuf = s.txbuf := rfl
@[simp] theorem clearErrs_trace (w : Word) : (clearErrs w s).trace = s.trace := rfl
@[simp] theorem clearErrs_time (w : Word) : (clearErrs w s).time = s.time := rfl
@[simp] theorem clearErrs_busErrors (w : Word) : (clearErrs w s).busErrors = s.busErrors := rfl
@[simp] theorem clearErrs_hostReads (w : Word) : (clearErrs w s).hostReads = s.hostReads := rfl
@[simp] theorem clearErrs_hostProg (w : Word) : (clearErrs w s).hostProg = s.hostProg := rfl
@[simp] theorem clearErrs_slave (w : Word) : (clearErrs w s).slave = s.slave := rfl
@[simp] theorem clearErrs_turns (w : Word) : (clearErrs w s).turns = s.turns := rfl
@[simp] theorem clearErrs_lead (w : Word) : (clearErrs w s).lead = s.lead := rfl
@[simp] theorem clearErrs_draws (w : Word) : (clearErrs w s).draws = s.draws := rfl

end Sys2Proof.Machine.Laws
end

