-- ==== Sys2Proof/Laws/Ops.lean ====
section
/-! SUPPORT. What the engine's shared operations can do: the fields they leave alone, and one lemma that says what an
engine step is. -/

namespace Sys2Proof.Machine.Laws

/-! ### Statements -/

@[simp] theorem stmt_scl (c : Stmt) (s : State) : (c.run s).scl = s.scl := by cases c <;> rfl
@[simp] theorem stmt_sdaDir (c : Stmt) (s : State) : (c.run s).sdaDir = s.sdaDir := by cases c <;> rfl
@[simp] theorem stmt_sdaOut (c : Stmt) (s : State) : (c.run s).sdaOut = s.sdaOut := by cases c <;> rfl
@[simp] theorem stmt_busy (c : Stmt) (s : State) : (c.run s).busy = s.busy := by cases c <;> rfl
@[simp] theorem stmt_errIllegal (c : Stmt) (s : State) : (c.run s).errIllegal = s.errIllegal := by cases c <;> rfl
@[simp] theorem stmt_errOverrun (c : Stmt) (s : State) : (c.run s).errOverrun = s.errOverrun := by cases c <;> rfl
@[simp] theorem stmt_errNoinit (c : Stmt) (s : State) : (c.run s).errNoinit = s.errNoinit := by cases c <;> rfl
@[simp] theorem stmt_errLen (c : Stmt) (s : State) : (c.run s).errLen = s.errLen := by cases c <;> rfl
@[simp] theorem stmt_cmd (c : Stmt) (s : State) : (c.run s).cmd = s.cmd := by cases c <;> rfl
@[simp] theorem stmt_upc (c : Stmt) (s : State) : (c.run s).upc = s.upc := by cases c <;> rfl
@[simp] theorem stmt_sampled (c : Stmt) (s : State) : (c.run s).sampled = s.sampled := by cases c <;> rfl
@[simp] theorem stmt_txbufSize (c : Stmt) (s : State) : (c.run s).txbufSize = s.txbufSize := by cases c <;> rfl
@[simp] theorem stmt_txbuf (c : Stmt) (s : State) : (c.run s).txbuf = s.txbuf := by cases c <;> rfl
@[simp] theorem stmt_trace (c : Stmt) (s : State) : (c.run s).trace = s.trace := by cases c <;> rfl
@[simp] theorem stmt_time (c : Stmt) (s : State) : (c.run s).time = s.time := by cases c <;> rfl
@[simp] theorem stmt_busErrors (c : Stmt) (s : State) : (c.run s).busErrors = s.busErrors := by cases c <;> rfl
@[simp] theorem stmt_hostReads (c : Stmt) (s : State) : (c.run s).hostReads = s.hostReads := by cases c <;> rfl
@[simp] theorem stmt_hostProg (c : Stmt) (s : State) : (c.run s).hostProg = s.hostProg := by cases c <;> rfl
@[simp] theorem stmt_slave (c : Stmt) (s : State) : (c.run s).slave = s.slave := by cases c <;> rfl
@[simp] theorem stmt_turns (c : Stmt) (s : State) : (c.run s).turns = s.turns := by cases c <;> rfl
@[simp] theorem stmt_lead (c : Stmt) (s : State) : (c.run s).lead = s.lead := by cases c <;> rfl

@[simp] theorem runStmts_nil (s : State) : runStmts [] s = s := rfl

@[simp] theorem runStmts_cons (c : Stmt) (cs : List Stmt) (s : State) :
    runStmts (c :: cs) s = runStmts cs (c.run s) := rfl

theorem runStmts_append (cs ds : List Stmt) (s : State) :
    runStmts (cs ++ ds) s = runStmts ds (runStmts cs s) := by
  simp [runStmts, List.foldl_append]

/-- A field no statement writes is the same after any statements. -/
theorem runStmts_keeps {α : Type} (f : State → α) (h : ∀ (c : Stmt) (s : State), f (c.run s) = f s) (cs : List Stmt)
    (s : State) : f (runStmts cs s) = f s := by
  induction cs generalizing s with
  | nil => rfl
  | cons c cs ih => rw [runStmts_cons, ih, h]

@[simp] theorem runStmts_scl (cs : List Stmt) (s : State) : (runStmts cs s).scl = s.scl :=
  runStmts_keeps State.scl stmt_scl cs s
@[simp] theorem runStmts_sdaDir (cs : List Stmt) (s : State) : (runStmts cs s).sdaDir = s.sdaDir :=
  runStmts_keeps State.sdaDir stmt_sdaDir cs s
@[simp] theorem runStmts_sdaOut (cs : List Stmt) (s : State) : (runStmts cs s).sdaOut = s.sdaOut :=
  runStmts_keeps State.sdaOut stmt_sdaOut cs s
@[simp] theorem runStmts_busy (cs : List Stmt) (s : State) : (runStmts cs s).busy = s.busy :=
  runStmts_keeps State.busy stmt_busy cs s
@[simp] theorem runStmts_errIllegal (cs : List Stmt) (s : State) : (runStmts cs s).errIllegal = s.errIllegal :=
  runStmts_keeps State.errIllegal stmt_errIllegal cs s
@[simp] theorem runStmts_errOverrun (cs : List Stmt) (s : State) : (runStmts cs s).errOverrun = s.errOverrun :=
  runStmts_keeps State.errOverrun stmt_errOverrun cs s
@[simp] theorem runStmts_errNoinit (cs : List Stmt) (s : State) : (runStmts cs s).errNoinit = s.errNoinit :=
  runStmts_keeps State.errNoinit stmt_errNoinit cs s
@[simp] theorem runStmts_errLen (cs : List Stmt) (s : State) : (runStmts cs s).errLen = s.errLen :=
  runStmts_keeps State.errLen stmt_errLen cs s
@[simp] theorem runStmts_cmd (cs : List Stmt) (s : State) : (runStmts cs s).cmd = s.cmd :=
  runStmts_keeps State.cmd stmt_cmd cs s
@[simp] theorem runStmts_upc (cs : List Stmt) (s : State) : (runStmts cs s).upc = s.upc :=
  runStmts_keeps State.upc stmt_upc cs s
@[simp] theorem runStmts_sampled (cs : List Stmt) (s : State) : (runStmts cs s).sampled = s.sampled :=
  runStmts_keeps State.sampled stmt_sampled cs s
@[simp] theorem runStmts_txbufSize (cs : List Stmt) (s : State) : (runStmts cs s).txbufSize = s.txbufSize :=
  runStmts_keeps State.txbufSize stmt_txbufSize cs s
@[simp] theorem runStmts_txbuf (cs : List Stmt) (s : State) : (runStmts cs s).txbuf = s.txbuf :=
  runStmts_keeps State.txbuf stmt_txbuf cs s
@[simp] theorem runStmts_trace (cs : List Stmt) (s : State) : (runStmts cs s).trace = s.trace :=
  runStmts_keeps State.trace stmt_trace cs s
@[simp] theorem runStmts_time (cs : List Stmt) (s : State) : (runStmts cs s).time = s.time :=
  runStmts_keeps State.time stmt_time cs s
@[simp] theorem runStmts_busErrors (cs : List Stmt) (s : State) : (runStmts cs s).busErrors = s.busErrors :=
  runStmts_keeps State.busErrors stmt_busErrors cs s
@[simp] theorem runStmts_hostReads (cs : List Stmt) (s : State) : (runStmts cs s).hostReads = s.hostReads :=
  runStmts_keeps State.hostReads stmt_hostReads cs s
@[simp] theorem runStmts_hostProg (cs : List Stmt) (s : State) : (runStmts cs s).hostProg = s.hostProg :=
  runStmts_keeps State.hostProg stmt_hostProg cs s
@[simp] theorem runStmts_slave (cs : List Stmt) (s : State) : (runStmts cs s).slave = s.slave :=
  runStmts_keeps State.slave stmt_slave cs s
@[simp] theorem runStmts_turns (cs : List Stmt) (s : State) : (runStmts cs s).turns = s.turns :=
  runStmts_keeps State.turns stmt_turns cs s
@[simp] theorem runStmts_lead (cs : List Stmt) (s : State) : (runStmts cs s).lead = s.lead :=
  runStmts_keeps State.lead stmt_lead cs s

/-! ### Primitives -/

@[simp] theorem prim_phase (p : Prim) (s : State) : (p.perform s).phase = s.phase := by
  cases p <;> simp only [Prim.perform, setSdaDir, setScl, setSda, waitFor, sampleSda] <;> (try split) <;> rfl
@[simp] theorem prim_initDone (p : Prim) (s : State) : (p.perform s).initDone = s.initDone := by
  cases p <;> simp only [Prim.perform, setSdaDir, setScl, setSda, waitFor, sampleSda] <;> (try split) <;> rfl
@[simp] theorem prim_busy (p : Prim) (s : State) : (p.perform s).busy = s.busy := by
  cases p <;> simp only [Prim.perform, setSdaDir, setScl, setSda, waitFor, sampleSda] <;> (try split) <;> rfl
@[simp] theorem prim_errIllegal (p : Prim) (s : State) : (p.perform s).errIllegal = s.errIllegal := by
  cases p <;> simp only [Prim.perform, setSdaDir, setScl, setSda, waitFor, sampleSda] <;> (try split) <;> rfl
@[simp] theorem prim_errOverrun (p : Prim) (s : State) : (p.perform s).errOverrun = s.errOverrun := by
  cases p <;> simp only [Prim.perform, setSdaDir, setScl, setSda, waitFor, sampleSda] <;> (try split) <;> rfl
@[simp] theorem prim_errNoinit (p : Prim) (s : State) : (p.perform s).errNoinit = s.errNoinit := by
  cases p <;> simp only [Prim.perform, setSdaDir, setScl, setSda, waitFor, sampleSda] <;> (try split) <;> rfl
@[simp] theorem prim_errLen (p : Prim) (s : State) : (p.perform s).errLen = s.errLen := by
  cases p <;> simp only [Prim.perform, setSdaDir, setScl, setSda, waitFor, sampleSda] <;> (try split) <;> rfl
@[simp] theorem prim_ackResult (p : Prim) (s : State) : (p.perform s).ackResult = s.ackResult := by
  cases p <;> simp only [Prim.perform, setSdaDir, setScl, setSda, waitFor, sampleSda] <;> (try split) <;> rfl
@[simp] theorem prim_pollCount (p : Prim) (s : State) : (p.perform s).pollCount = s.pollCount := by
  cases p <;> simp only [Prim.perform, setSdaDir, setScl, setSda, waitFor, sampleSda] <;> (try split) <;> rfl
@[simp] theorem prim_txnStatus (p : Prim) (s : State) : (p.perform s).txnStatus = s.txnStatus := by
  cases p <;> simp only [Prim.perform, setSdaDir, setScl, setSda, waitFor, sampleSda] <;> (try split) <;> rfl
@[simp] theorem prim_txnIndex (p : Prim) (s : State) : (p.perform s).txnIndex = s.txnIndex := by
  cases p <;> simp only [Prim.perform, setSdaDir, setScl, setSda, waitFor, sampleSda] <;> (try split) <;> rfl
@[simp] theorem prim_rxdata (p : Prim) (s : State) : (p.perform s).rxdata = s.rxdata := by
  cases p <;> simp only [Prim.perform, setSdaDir, setScl, setSda, waitFor, sampleSda] <;> (try split) <;> rfl
@[simp] theorem prim_shift (p : Prim) (s : State) : (p.perform s).shift = s.shift := by
  cases p <;> simp only [Prim.perform, setSdaDir, setScl, setSda, waitFor, sampleSda] <;> (try split) <;> rfl
@[simp] theorem prim_acc (p : Prim) (s : State) : (p.perform s).acc = s.acc := by
  cases p <;> simp only [Prim.perform, setSdaDir, setScl, setSda, waitFor, sampleSda] <;> (try split) <;> rfl
@[simp] theorem prim_cmd (p : Prim) (s : State) : (p.perform s).cmd = s.cmd := by
  cases p <;> simp only [Prim.perform, setSdaDir, setScl, setSda, waitFor, sampleSda] <;> (try split) <;> rfl
@[simp] theorem prim_polls (p : Prim) (s : State) : (p.perform s).polls = s.polls := by
  cases p <;> simp only [Prim.perform, setSdaDir, setScl, setSda, waitFor, sampleSda] <;> (try split) <;> rfl
@[simp] theorem prim_idx (p : Prim) (s : State) : (p.perform s).idx = s.idx := by
  cases p <;> simp only [Prim.perform, setSdaDir, setScl, setSda, waitFor, sampleSda] <;> (try split) <;> rfl
@[simp] theorem prim_upc (p : Prim) (s : State) : (p.perform s).upc = s.upc := by
  cases p <;> simp only [Prim.perform, setSdaDir, setScl, setSda, waitFor, sampleSda] <;> (try split) <;> rfl
@[simp] theorem prim_txbufSize (p : Prim) (s : State) : (p.perform s).txbufSize = s.txbufSize := by
  cases p <;> simp only [Prim.perform, setSdaDir, setScl, setSda, waitFor, sampleSda] <;> (try split) <;> rfl
@[simp] theorem prim_txbuf (p : Prim) (s : State) : (p.perform s).txbuf = s.txbuf := by
  cases p <;> simp only [Prim.perform, setSdaDir, setScl, setSda, waitFor, sampleSda] <;> (try split) <;> rfl
@[simp] theorem prim_busErrors (p : Prim) (s : State) : (p.perform s).busErrors = s.busErrors := by
  cases p <;> simp only [Prim.perform, setSdaDir, setScl, setSda, waitFor, sampleSda] <;> (try split) <;> rfl
@[simp] theorem prim_hostReads (p : Prim) (s : State) : (p.perform s).hostReads = s.hostReads := by
  cases p <;> simp only [Prim.perform, setSdaDir, setScl, setSda, waitFor, sampleSda] <;> (try split) <;> rfl
@[simp] theorem prim_hostProg (p : Prim) (s : State) : (p.perform s).hostProg = s.hostProg := by
  cases p <;> simp only [Prim.perform, setSdaDir, setScl, setSda, waitFor, sampleSda] <;> (try split) <;> rfl
@[simp] theorem prim_turns (p : Prim) (s : State) : (p.perform s).turns = s.turns := by
  cases p <;> simp only [Prim.perform, setSdaDir, setScl, setSda, waitFor, sampleSda] <;> (try split) <;> rfl
@[simp] theorem prim_lead (p : Prim) (s : State) : (p.perform s).lead = s.lead := by
  cases p <;> simp only [Prim.perform, setSdaDir, setScl, setSda, waitFor, sampleSda] <;> (try split) <;> rfl

/-- A primitive appends exactly one event (40_bit_sequencer.md R141). -/
theorem prim_trace (p : Prim) (s : State) : ∃ e, (p.perform s).trace = s.trace ++ [e] := by
  cases p <;> simp only [Prim.perform, setSdaDir, setScl, setSda, waitFor, sampleSda] <;> (try split) <;>
    exact ⟨_, rfl⟩

/-- `Drive(SDA, v)` while SDA is an output (40_bit_sequencer.md R144). -/
theorem setSda_output (v : Level) (s : State) (h : s.sdaDir = .output) :
    setSda v s = State.emit (.sda v) { s with sdaOut := v } := by
  simp [setSda, h]

/-- `Drive(SDA, v)` while SDA is an input: the latch is a free value (40_bit_sequencer.md R144). -/
theorem setSda_input (v : Level) (s : State) (h : s.sdaDir = .input) :
    setSda v s = State.emit (.sdaIgnored v) (State.drawn { s with sdaOut := Config.drawLevel s.draws }) := by
  simp [setSda, h]

/-- `Sample(SDA)` while SDA is an output: the level is a free value, the slave is not asked (40_bit_sequencer.md R146). -/
theorem sampleSda_output (s : State) (h : s.sdaDir = .output) :
    sampleSda s = State.emit (.sample (Config.drawLevel s.draws))
      { State.drawn (State.elapse (Config.tPoll : Rat) s) with sampled := Config.drawLevel s.draws } := by
  simp [sampleSda, h]

/-- `Sample(SDA)` while SDA is an input (40_bit_sequencer.md R146). -/
theorem sampleSda_input (s : State) (h : s.sdaDir = .input) :
    sampleSda s = State.emit (.sample (slaveAnswer s))
      { State.drawn (State.elapse (Config.tPoll : Rat) s) with sampled := slaveAnswer s, slave := s.slave.tail } := by
  simp [sampleSda, h]

/-! ### One primitive with its statements -/

@[simp] theorem op_busy (op : MicroOp) (s : State) : (op.run s).busy = s.busy := by simp [MicroOp.run]
@[simp] theorem op_errIllegal (op : MicroOp) (s : State) : (op.run s).errIllegal = s.errIllegal := by simp [MicroOp.run]
@[simp] theorem op_errOverrun (op : MicroOp) (s : State) : (op.run s).errOverrun = s.errOverrun := by simp [MicroOp.run]
@[simp] theorem op_errNoinit (op : MicroOp) (s : State) : (op.run s).errNoinit = s.errNoinit := by simp [MicroOp.run]
@[simp] theorem op_errLen (op : MicroOp) (s : State) : (op.run s).errLen = s.errLen := by simp [MicroOp.run]
@[simp] theorem op_cmd (op : MicroOp) (s : State) : (op.run s).cmd = s.cmd := by simp [MicroOp.run]
@[simp] theorem op_upc (op : MicroOp) (s : State) : (op.run s).upc = s.upc := by simp [MicroOp.run]
@[simp] theorem op_txbufSize (op : MicroOp) (s : State) : (op.run s).txbufSize = s.txbufSize := by simp [MicroOp.run]
@[simp] theorem op_txbuf (op : MicroOp) (s : State) : (op.run s).txbuf = s.txbuf := by simp [MicroOp.run]
@[simp] theorem op_busErrors (op : MicroOp) (s : State) : (op.run s).busErrors = s.busErrors := by simp [MicroOp.run]
@[simp] theorem op_hostReads (op : MicroOp) (s : State) : (op.run s).hostReads = s.hostReads := by simp [MicroOp.run]
@[simp] theorem op_hostProg (op : MicroOp) (s : State) : (op.run s).hostProg = s.hostProg := by simp [MicroOp.run]
@[simp] theorem op_turns (op : MicroOp) (s : State) : (op.run s).turns = s.turns := by simp [MicroOp.run]
@[simp] theorem op_lead (op : MicroOp) (s : State) : (op.run s).lead = s.lead := by simp [MicroOp.run]

@[simp] theorem enter_length (cs : List Stmt) (ops : List MicroOp) : (enter cs ops).length = ops.length := by
  cases ops <;> rfl

@[simp] theorem prims_length (ps : List Prim) : (prims ps).length = ps.length := List.length_map ..

/-! ### Completion -/

@[simp] theorem complete_scl (cs : List Stmt) (s : State) : (complete cs s).scl = s.scl := by simp [complete]
@[simp] theorem complete_sdaDir (cs : List Stmt) (s : State) : (complete cs s).sdaDir = s.sdaDir := by simp [complete]
@[simp] theorem complete_sdaOut (cs : List Stmt) (s : State) : (complete cs s).sdaOut = s.sdaOut := by simp [complete]
@[simp] theorem complete_errIllegal (cs : List Stmt) (s : State) : (complete cs s).errIllegal = s.errIllegal := by simp [complete]
@[simp] theorem complete_errOverrun (cs : List Stmt) (s : State) : (complete cs s).errOverrun = s.errOverrun := by simp [complete]
@[simp] theorem complete_errNoinit (cs : List Stmt) (s : State) : (complete cs s).errNoinit = s.errNoinit := by simp [complete]
@[simp] theorem complete_errLen (cs : List Stmt) (s : State) : (complete cs s).errLen = s.errLen := by simp [complete]
@[simp] theorem complete_cmd (cs : List Stmt) (s : State) : (complete cs s).cmd = s.cmd := by simp [complete]
@[simp] theorem complete_upc (cs : List Stmt) (s : State) : (complete cs s).upc = s.upc := by simp [complete]
@[simp] theorem complete_sampled (cs : List Stmt) (s : State) : (complete cs s).sampled = s.sampled := by simp [complete]
@[simp] theorem complete_txbufSize (cs : List Stmt) (s : State) : (complete cs s).txbufSize = s.txbufSize := by simp [complete]
@[simp] theorem complete_txbuf (cs : List Stmt) (s : State) : (complete cs s).txbuf = s.txbuf := by simp [complete]
@[simp] theorem complete_trace (cs : List Stmt) (s : State) : (complete cs s).trace = s.trace := by simp [complete]
@[simp] theorem complete_time (cs : List Stmt) (s : State) : (complete cs s).time = s.time := by simp [complete]
@[simp] theorem complete_busErrors (cs : List Stmt) (s : State) : (complete cs s).busErrors = s.busErrors := by simp [complete]
@[simp] theorem complete_hostReads (cs : List Stmt) (s : State) : (complete cs s).hostReads = s.hostReads := by simp [complete]
@[simp] theorem complete_hostProg (cs : List Stmt) (s : State) : (complete cs s).hostProg = s.hostProg := by simp [complete]
@[simp] theorem complete_slave (cs : List Stmt) (s : State) : (complete cs s).slave = s.slave := by simp [complete]
@[simp] theorem complete_turns (cs : List Stmt) (s : State) : (complete cs s).turns = s.turns := by simp [complete]
@[simp] theorem complete_lead (cs : List Stmt) (s : State) : (complete cs s).lead = s.lead := by simp [complete]

@[simp] theorem complete_busy (cs : List Stmt) (s : State) : (complete cs s).busy = false := rfl

/-! ### One engine step -/

/-- An engine step at a primitive that does not end its block (40_bit_sequencer.md R150). -/
theorem runCode_inside {code : Block → List MicroOp} {last : Block → State → State} {s : State} {op : MicroOp}
    (hop : (code s.upc.block)[s.upc.pos]? = some op) (h : s.upc.pos + 1 ≠ (code s.upc.block).length) :
    runCode code last s = .next (advance (op.run s)) := by
  simp [runCode, hop, h]

/-- An engine step at the last primitive of its block (40_bit_sequencer.md R150). -/
theorem runCode_last {code : Block → List MicroOp} {last : Block → State → State} {s : State} {op : MicroOp}
    (hop : (code s.upc.block)[s.upc.pos]? = some op) (h : s.upc.pos + 1 = (code s.upc.block).length) :
    runCode code last s = .next (last s.upc.block (op.run s)) := by
  simp [runCode, hop, h]

/-- All an engine step can do: it never refuses; if it answers a next state, the position named a primitive, which was
performed, and the position moved on inside its block or the block ended. -/
theorem runCode_next {code : Block → List MicroOp} {last : Block → State → State} {s t : State}
    (h : runCode code last s = .next t) :
    ∃ op, (code s.upc.block)[s.upc.pos]? = some op ∧
      ((s.upc.pos + 1 = (code s.upc.block).length ∧ t = last s.upc.block (op.run s)) ∨
        (s.upc.pos + 1 < (code s.upc.block).length ∧ t = advance (op.run s))) := by
  unfold runCode at h
  split at h
  · cases h
  · rename_i op hop
    refine ⟨op, hop, ?_⟩
    have hlt : s.upc.pos < (code s.upc.block).length := (List.getElem?_eq_some_iff.mp hop).1
    split at h
    · rename_i hl
      exact .inl ⟨hl, by cases h; rfl⟩
    · exact .inr ⟨by omega, by cases h; rfl⟩

/-- An engine step answers a next state exactly where the position names a primitive of the command. -/
theorem runCode_isNext {code : Block → List MicroOp} {last : Block → State → State} {s : State}
    (h : s.upc.pos < (code s.upc.block).length) : ∃ t, runCode code last s = .next t := by
  unfold runCode
  rw [List.getElem?_eq_getElem h]
  dsimp only
  split <;> exact ⟨_, rfl⟩

/-! ### Decisions -/

theorem afterSample_low {f : Frame} {s : State} (h : s.sampled = .low) : afterSample f s = goto (.acked f) s := by
  simp [afterSample, h]

theorem afterSample_high {f : Frame} {s : State} (h : s.sampled = .high) :
    afterSample f s =
      if s.polls.toNat + 1 = Config.ackPollLimit then goto (.timeout f) s else goto (.poll f) s := by
  simp [afterSample, h]

/-- A decision after a Sample moves the position and nothing else. -/
theorem afterSample_goto (f : Frame) (s : State) :
    ∃ b, afterSample f s = goto b s ∧ (b = .acked f ∨ b = .timeout f ∨ b = .poll f) := by
  unfold afterSample
  split
  · exact ⟨_, rfl, .inl rfl⟩
  · split
    · exact ⟨_, rfl, .inr (.inl rfl)⟩
    · exact ⟨_, rfl, .inr (.inr rfl)⟩

/-- The decision after an acknowledged frame of WRITE_TXN moves the position and nothing else. -/
theorem nextFrame_goto (len : Len) (f : Frame) (s : State) :
    ∃ b, nextFrame len f s = goto b s ∧ (b = .payload f ∨ b = .close f) := by
  unfold nextFrame
  split
  · exact ⟨_, rfl, .inl rfl⟩
  · exact ⟨_, rfl, .inr rfl⟩

end Sys2Proof.Machine.Laws
end

