-- ==== Sys2Proof/Laws/HostPort.lean ====
section
/-! SUPPORT. What a host step can do. -/

namespace Sys2Proof.Machine.Laws

/-- Reading TXBUF draws free values and does nothing else. -/
theorem readTxbuf_state (n i : Nat) (s : State) :
    ∃ d, (readTxbuf n i s).2 = { s with draws := d } := by
  induction n generalizing i s with
  | zero => exact ⟨s.draws, rfl⟩
  | succ n ih =>
    obtain ⟨d, hd⟩ := ih (i + 1) (State.drawn s)
    exact ⟨d, hd⟩

/-- What reading `n` TXBUF bytes from index `i` gives: the stored bytes, a fresh free value for each unwritten one
(20_memory.md R91, R94). -/
theorem readTxbuf_eq (n i : Nat) (s : State) :
    readTxbuf n i s =
      ((List.range n).map fun k => (Memory.read s.txbuf (i + k)).getD (Config.drawByte (s.draws + k)),
        { s with draws := s.draws + n }) := by
  induction n generalizing i s with
  | zero => rfl
  | succ n ih =>
    rw [readTxbuf, ih, List.range_succ_eq_map, List.map_cons, List.map_map]
    refine Prod.ext (List.cons_eq_cons.mpr ⟨rfl, List.map_congr_left fun k _ => ?_⟩) ?_
    · simp only [State.drawn, Function.comp, Nat.succ_eq_add_one]
      rw [show i + 1 + k = i + (k + 1) by omega, show s.draws + 1 + k = s.draws + (k + 1) by omega]
    · simp only [State.drawn]
      rw [show s.draws + 1 + n = s.draws + (n + 1) by omega]

/-- An aligned access wholly inside TXBUF reaches it (20_memory.md R95). -/
theorem target_inside {n i : Nat} {off : Offset} {size : Size} (ho : off.toNat = 0x100 + i)
    (hi : i + sizeBytes size ≤ n) (ha : off.toNat % sizeBytes size = 0) : target n off size = .txbuf i := by
  have hc : txbufBase ≤ off.toNat ∧ off.toNat + sizeBytes size ≤ txbufBase + n ∧ off.toNat % sizeBytes size = 0 :=
    ⟨by unfold txbufBase; omega, by unfold txbufBase; omega, ha⟩
  unfold target
  dsimp only
  rw [if_pos hc, ho, txbufBase, Nat.add_sub_cancel_left]

/-- All a host read does to the state: free values drawn, a bus error recorded or none (20_memory.md R84, R85). -/
theorem readData_state (off : Offset) (size : Size) (s : State) :
    ∃ d errs, (readData off size s).2 = { s with draws := d, busErrors := errs } := by
  unfold readData
  split
  · exact ⟨s.draws, s.busErrors, rfl⟩
  · rename_i i _
    obtain ⟨d, hd⟩ := readTxbuf_state (sizeBytes size) i s
    exact ⟨d, s.busErrors, hd⟩
  · exact ⟨s.draws, _, rfl⟩

/-- All a host read does to the state, its record included. -/
theorem hostRead_state (off : Offset) (size : Size) (s : State) :
    ∃ d errs reads, hostRead off size s = { s with draws := d, busErrors := errs, hostReads := reads } := by
  obtain ⟨d, errs, h⟩ := readData_state off size s
  exact ⟨d, errs, (hostRead off size s).hostReads, by unfold hostRead; dsimp only; rw [h]⟩

/-- A word offered to CMD is refused with one error bit, or accepted (40_bit_sequencer.md R153). -/
theorem offer_cases (w : Word) (s : State) :
    (∃ e, offer w s = setErr e s) ∨
      ∃ i, s.busy = false ∧ decode w = .ok i ∧ refusalOf i s = none ∧ offer w s = accept w s := by
  unfold offer
  split
  · exact .inl ⟨_, rfl⟩
  · rename_i hb
    split
    · exact .inl ⟨_, rfl⟩
    · rename_i i hi
      split
      · exact .inl ⟨_, rfl⟩
      · rename_i hr
        exact .inr ⟨i, by simpa using hb, hi, hr, rfl⟩

/-- What an access that reaches TXBUF satisfies (20_memory.md R95). -/
theorem target_txbuf {n : Nat} {off : Offset} {size : Size} {i : Nat} (h : target n off size = .txbuf i) :
    off.toNat = txbufBase + i ∧ i + sizeBytes size ≤ n ∧ off.toNat % sizeBytes size = 0 := by
  unfold target at h
  dsimp only at h
  split at h
  · rename_i hc
    obtain ⟨h1, h2, h3⟩ := hc
    have hi : off.toNat - txbufBase = i := by injection h
    exact ⟨by omega, by omega, h3⟩
  · split at h
    · split at h <;> cases h
    · cases h
    · cases h

/-- All a host write can do: an error bit set, error bits cleared, a command accepted, TXBUF written, a bus error
recorded, or nothing (20_memory.md R84, R86, R92). -/
theorem hostWrite_cases (off : Offset) (size : Size) (w : Word) (s : State) :
    (∃ e, hostWrite off size w s = setErr e s) ∨
    hostWrite off size w s = clearErrs w s ∨
    (∃ i, s.busy = false ∧ decode w = .ok i ∧ refusalOf i s = none ∧ hostWrite off size w s = accept w s) ∨
    (∃ i, s.busy = false ∧ i + sizeBytes size ≤ s.txbufSize ∧ hostWrite off size w s =
      { s with txbuf := Memory.writeBytes s.txbuf i ((List.range (sizeBytes size)).map (dataByte w)) }) ∨
    hostWrite off size w s = busError off size s ∨
    hostWrite off size w s = s := by
  unfold hostWrite
  split
  · rename_i r _
    cases r with
    | cmd => rcases offer_cases w s with ⟨e, h⟩ | ⟨i, hb, hd, hr, h⟩
             · exact .inl ⟨e, h⟩
             · exact .inr (.inr (.inl ⟨i, hb, hd, hr, h⟩))
    | status => exact .inr (.inl rfl)
    | result => exact .inr (.inr (.inr (.inr (.inr rfl))))
    | rxdata => exact .inr (.inr (.inr (.inr (.inr rfl))))
    | lines => exact .inr (.inr (.inr (.inr (.inr rfl))))
  · rename_i i ht
    by_cases hb : s.busy
    · exact .inl ⟨.overrun, by simp [writeTxbuf, hb]⟩
    · exact .inr (.inr (.inr (.inl ⟨i, by simpa using hb, (target_txbuf ht).2.1, by simp [writeTxbuf, hb]⟩)))
  · exact .inr (.inr (.inr (.inr (.inl rfl))))

/-- One operation of the host's program is a write or a read, after which the program moves on or stays. -/
theorem hostOp_cases (op : HostOp) (s : State) :
    (∃ off size w, hostOp op s = hostAdvance (hostWrite off size w s)) ∨
    ∃ d errs reads prog,
      hostOp op s = { s with draws := d, busErrors := errs, hostReads := reads, hostProg := prog } := by
  cases op with
  | write off size w => exact .inl ⟨off, size, w, rfl⟩
  | read off size =>
    obtain ⟨d, errs, reads, h⟩ := hostRead_state off size s
    exact .inr ⟨d, errs, reads, s.hostProg.tail, by rw [hostOp, h]; rfl⟩
  | poll off m v =>
    obtain ⟨d, errs, reads, h⟩ := hostRead_state off .word s
    rw [hostOp, h]
    split
    · exact .inr ⟨d, errs, reads, s.hostProg.tail, rfl⟩
    · exact .inr ⟨d, errs, reads, s.hostProg, rfl⟩

/-- No host write touches the host's program, the turns or `lead`. -/
theorem hostWrite_keeps (off : Offset) (size : Size) (w : Word) (s : State) :
    (hostWrite off size w s).hostProg = s.hostProg ∧ (hostWrite off size w s).turns = s.turns ∧
      (hostWrite off size w s).lead = s.lead := by
  rcases hostWrite_cases off size w s with ⟨e, h⟩ | h | ⟨i, -, -, -, h⟩ | ⟨i, -, -, h⟩ | h | h <;> rw [h] <;> simp

/-- No host step decides whose step comes next. -/
theorem hostStep_keeps (s : State) : (hostStep s).turns = s.turns ∧ (hostStep s).lead = s.lead := by
  unfold hostStep
  split
  · exact ⟨rfl, rfl⟩
  · rename_i op _ _
    rcases hostOp_cases op s with ⟨off, size, w, h⟩ | ⟨d, errs, reads, prog, h⟩
    · rw [h]
      exact (hostWrite_keeps off size w s).2
    · rw [h]
      exact ⟨rfl, rfl⟩

end Sys2Proof.Machine.Laws
end

