-- ==== Sys2Proof/Laws/PerInstr.lean ====
section
/-! SUPPORT. A statement about each command as syntax: its word carries its opcode of 30_encoding.md R114 and 0 in the
reserved bits of R111. -/

namespace Sys2Proof.Laws.OpcodeField

/-- OPC (30_encoding.md R114). -/
def opcode : Instr → BitVec 4
  | .init => 0x1
  | .start => 0x2
  | .stop => 0x3
  | .sendAddr _ _ => 0x4
  | .sendByte _ => 0x5
  | .waitAck => 0x6
  | .ack => 0x7
  | .readByte => 0x8
  | .writeTxn _ _ => 0x9

/-- The word of `i` has OPC in bits 3:0 and 0 in bits 7:4. -/
def Statement (i : Instr) : Prop := fieldOpc (encode i) = opcode i ∧ fieldRsv (encode i) = 0#4

theorem init : Statement .init := by simp [Statement, encode, opcode]

theorem start : Statement .start := by simp [Statement, encode, opcode]

theorem stop : Statement .stop := by simp [Statement, encode, opcode]

theorem sendAddr (addr : Addr7) (rw : Rw) : Statement (.sendAddr addr rw) := by simp [Statement, encode, opcode]

theorem sendByte (data : Byte) : Statement (.sendByte data) := by simp [Statement, encode, opcode]

theorem waitAck : Statement .waitAck := by simp [Statement, encode, opcode]

theorem ack : Statement .ack := by simp [Statement, encode, opcode]

theorem readByte : Statement .readByte := by simp [Statement, encode, opcode]

theorem writeTxn (addr : Addr7) (len : Len) : Statement (.writeTxn addr len) := by
  simp [Statement, encode, opcode]

end Sys2Proof.Laws.OpcodeField
end

