-- ==== Sys2Proof/Laws/Step.lean ====
section
/-! SUPPORT. What a step of the machine can be. -/

namespace Sys2Proof.Machine.Laws

/-- Where both agents contend, the drawn number is used up by one host step or has come to 0. -/
theorem contend_drawLead (s : State) :
    ∃ draws, (∃ k, (drawLead s).lead = some k ∧
      ((∃ m, k = m + 1 ∧ contend (drawLead s) = .next (hostStep { s with lead := some m, draws := draws })) ∨
        (k = 0 ∧ contend (drawLead s) = engineStep { s with lead := none, draws := draws }))) := by
  unfold drawLead
  split
  · rename_i k hk
    refine ⟨s.draws, k, hk, ?_⟩
    cases k with
    | zero => exact .inr ⟨rfl, by simp [contend, hk]⟩
    | succ m => exact .inl ⟨m, rfl, by simp [contend, hk]⟩
  · rename_i hk
    refine ⟨s.draws + 1, Config.hostLead s.draws, rfl, ?_⟩
    cases h : Config.hostLead s.draws with
    | zero => exact .inr ⟨rfl, by simp [contend, State.drawn]⟩
    | succ m => exact .inl ⟨m, rfl, by simp [contend, State.drawn]⟩

/-- Whose step it is only changes the turns, the count of draws and `lead` before that step runs. -/
theorem step_cases (s : State) :
    ∃ turns draws lead,
      step s = engineStep { s with turns := turns, draws := draws, lead := lead } ∨
      step s = .next (hostStep { s with turns := turns, draws := draws, lead := lead }) ∨
      step s = .next (resetStep { s with turns := turns, draws := draws, lead := lead }) := by
  unfold step
  split
  · unfold freeStep
    split
    · exact ⟨s.turns, s.draws, s.lead, .inr (.inl rfl)⟩
    · split
      · exact ⟨s.turns, s.draws, s.lead, .inl rfl⟩
      · obtain ⟨d, k, -, ⟨m, -, h⟩ | ⟨-, h⟩⟩ := contend_drawLead s
        · exact ⟨s.turns, d, some m, .inr (.inl h)⟩
        · exact ⟨s.turns, d, none, .inl h⟩
  · rename_i rest _
    exact ⟨rest, s.draws, s.lead, .inl rfl⟩
  · rename_i rest _
    exact ⟨rest, s.draws, s.lead, .inr (.inl rfl)⟩
  · rename_i rest _
    exact ⟨rest, s.draws, s.lead, .inr (.inr rfl)⟩

/-- All an engine step can do (40_bit_sequencer.md R150). -/
theorem engineStep_next {s t : State} (h : engineStep s = .next t) :
    (s.busy = false ∧ t = s) ∨ ∃ i, s.busy = true ∧ decode s.cmd = .ok i ∧ exec i s = .next t := by
  unfold engineStep at h
  split at h
  · rename_i hb
    split at h
    · rename_i i hi
      exact .inr ⟨i, hb, hi, h⟩
    · cases h
  · rename_i hb
    exact .inl ⟨by simpa using hb, by cases h; rfl⟩

end Sys2Proof.Machine.Laws
end

