-- ==== Sys2Proof/Laws/Run.lean ====
section
/-! SUPPORT. A command run by the engine alone: a whole block of pseudocode is its primitives with their statements, one
after another, whatever the position register says meanwhile. -/

namespace Sys2Proof.Machine.Laws

/-- `s` at another position. -/
def setUpc (u : Upc) (s : State) : State := { s with upc := u }

/-- Primitives with their statements, one after another. -/
def runOps (ops : List MicroOp) (s : State) : State := ops.foldl (fun t op => op.run t) s

@[simp] theorem runOps_nil (s : State) : runOps [] s = s := rfl

@[simp] theorem runOps_cons (op : MicroOp) (ops : List MicroOp) (s : State) :
    runOps (op :: ops) s = runOps ops (op.run s) := rfl

theorem runOps_append (l m : List MicroOp) (s : State) : runOps (l ++ m) s = runOps m (runOps l s) := by
  simp [runOps, List.foldl_append]

theorem setUpc_self {s : State} {u : Upc} (h : s.upc = u) : setUpc u s = s := by subst h; rfl

@[simp] theorem setUpc_upc (u : Upc) (s : State) : (setUpc u s).upc = u := rfl

@[simp] theorem setUpc_setUpc (u v : Upc) (s : State) : setUpc u (setUpc v s) = setUpc u s := rfl

/-- No statement reads or writes the position. -/
theorem stmt_setUpc (c : Stmt) (u : Upc) (s : State) : c.run (setUpc u s) = setUpc u (c.run s) := by
  cases c <;> rfl

theorem runStmts_setUpc (cs : List Stmt) (u : Upc) (s : State) :
    runStmts cs (setUpc u s) = setUpc u (runStmts cs s) := by
  induction cs generalizing s with
  | nil => rfl
  | cons c cs ih => rw [runStmts_cons, runStmts_cons, stmt_setUpc, ih]

/-- No primitive reads or writes the position. -/
theorem prim_setUpc (p : Prim) (u : Upc) (s : State) : p.perform (setUpc u s) = setUpc u (p.perform s) := by
  cases p <;> simp only [Prim.perform, setSdaDir, setScl, setSda, waitFor, sampleSda] <;> (try split) <;>
    simp_all [setUpc, State.emit, State.drawn, State.elapse, slaveAnswer]

theorem op_setUpc (op : MicroOp) (u : Upc) (s : State) : op.run (setUpc u s) = setUpc u (op.run s) := by
  rw [MicroOp.run, MicroOp.run, runStmts_setUpc, prim_setUpc]

theorem runOps_setUpc (ops : List MicroOp) (u : Upc) (s : State) :
    runOps ops (setUpc u s) = setUpc u (runOps ops s) := by
  induction ops generalizing s with
  | nil => rfl
  | cons op ops ih => rw [runOps_cons, runOps_cons, op_setUpc, ih]

/-- A command's meaning is one step over its pseudocode. -/
theorem exec_eq_runCode (i : Instr) (s : State) : exec i s = runCode (commandCode i) (commandLast i) s := by
  cases i <;> rfl

/-- `n` engine steps inside a block. -/
theorem execN_inside (i : Instr) (b : Block) (n k : Nat) (s : State) (hu : s.upc = { block := b, pos := k })
    (h : k + n < (commandCode i b).length) :
    execN i n s = .next (setUpc { block := b, pos := k + n } (runOps (((commandCode i b).drop k).take n) s)) := by
  induction n generalizing k s with
  | zero => simp [execN, setUpc_self hu]
  | succ n ih =>
    have hk : k < (commandCode i b).length := by omega
    have hc : (commandCode i s.upc.block)[s.upc.pos]? = some (commandCode i b)[k] := by simp [hu]
    have h1 : exec i s = .next (setUpc { block := b, pos := k + 1 } ((commandCode i b)[k].run s)) := by
      rw [exec_eq_runCode, runCode_inside hc (by simp only [hu]; omega)]
      simp [advance, setUpc, hu]
    rw [execN, h1]
    dsimp only
    rw [ih (k + 1) _ rfl (by omega), runOps_setUpc, setUpc_setUpc, List.drop_eq_getElem_cons hk, List.take_succ_cons,
      runOps_cons, show k + 1 + n = k + (n + 1) by omega]

/-- Engine steps from position `k` of a block to its end: the last of them is what follows the block. -/
theorem execN_toEnd (i : Instr) (b : Block) (k n : Nat) (s : State) (hu : s.upc = { block := b, pos := k })
    (h : k + n + 1 = (commandCode i b).length) :
    ∃ u, execN i n s = .next u ∧
      exec i u =
        .next (commandLast i b (setUpc { block := b, pos := k + n } (runOps ((commandCode i b).drop k) s))) := by
  refine ⟨_, execN_inside i b n k s hu (by omega), ?_⟩
  have hk : k + n < (commandCode i b).length := by omega
  have hlast : (commandCode i b).drop (k + n) = [(commandCode i b)[k + n]] := by
    rw [List.drop_eq_getElem_cons hk, List.drop_eq_nil_of_le (by omega)]
  have hsplit : (commandCode i b).drop k = ((commandCode i b).drop k).take n ++ [(commandCode i b)[k + n]] := by
    rw [← hlast, ← List.drop_drop, List.take_append_drop]
  have hl : runOps ((commandCode i b).drop k) s =
      (commandCode i b)[k + n].run (runOps (((commandCode i b).drop k).take n) s) := by
    rw [hsplit, runOps_append, ← hsplit]
    rfl
  rw [exec_eq_runCode, runCode_last (op := (commandCode i b)[k + n]) (by simp) (by simp [h]), hl, op_setUpc]
  rfl

theorem execN_add (i : Instr) (m n : Nat) (s : State) :
    execN i (m + n) s = match execN i m s with
      | .next t => execN i n t
      | .fault f => .fault f
      | .refused r => .refused r := by
  induction m generalizing s with
  | zero => simp [execN]
  | succ m ih =>
    rw [show m + 1 + n = m + n + 1 by omega, execN, execN]
    cases exec i s <;> simp [ih]

theorem execN_then {i : Instr} {m n : Nat} {s t : State} (h : execN i m s = .next t) :
    execN i (m + n) s = execN i n t := by
  rw [execN_add, h]

theorem execN_succ {i : Instr} {n : Nat} {s u t : State} (h : execN i n s = .next u) (h' : exec i u = .next t) :
    execN i (n + 1) s = .next t := by
  rw [execN_then h, execN, h']
  rfl

end Sys2Proof.Machine.Laws
end

