-- ==== Sys2Proof/Tests/Slice0.lean ====
section
/-! SUPPORT. Small tests: decoding of words written out bit by bit, single steps against 95_test_vectors.md, and for
each statement of the obligations a concrete state that meets its hypotheses. -/

namespace Sys2Proof.Tests

open Sys2Proof Sys2Proof.Machine Sys2Proof.Expected

/-! ### States -/

/-- RESET with `TXBUF_SIZE = 256` (95_test_vectors.md, conventions). -/
def idle : State := { State.reset with txbufSize := 256 }

/-- AFTER_INIT: LINES 0x4 (70_reset_and_hazards.md R301). -/
def afterInit : State := { idle with initDone := true, scl := .low, sdaDir := .output, sdaOut := .low }

/-- AFTER_STOP: LINES 0x7 (70_reset_and_hazards.md R301). -/
def afterStop : State := { idle with initDone := true, scl := .high, sdaDir := .output, sdaOut := .high }

/-- AFTER_SEND: LINES 0x6 (70_reset_and_hazards.md R301). -/
def afterSend : State := { afterInit with sdaOut := .high, phase := .data }

/-- AFTER_WAIT_ACKED: LINES 0x2 (70_reset_and_hazards.md R301). -/
def afterAcked : State := { afterSend with sdaDir := .input, phase := .ackWait, ackResult := .acked, pollCount := 1 }

/-- Command `i` running at `pos` of block `b`. -/
def running (i : Instr) (b : Block) (pos : Nat) (s : State) : State :=
  { s with cmd := encode i, busy := true, upc := { block := b, pos := pos } }

/-- The next state of a step that has one; `d` otherwise. -/
def after (d : State) : Host.Outcome State Fault Refusal → State
  | .next t => t
  | .fault _ | .refused _ => d

/-- The state after one step. -/
def afterStep (s : State) : State := after s (step s)

/-! ### Well-formedness -/

theorem test_wellFormed_len_3840 : WellFormed (.writeTxn 0x50 3840) = true := by decide

theorem test_illFormed_len_3841 : WellFormed (.writeTxn 0x50 3841) = false := by decide

/-! ### Decoding: words written bit by bit, `{LEN, bit 15, bits 14:8, RSV, OPC}` (30_encoding.md R111) -/

theorem test_decode_init : decode (0x0000#16 ++ 0b0#1 ++ 0b0000000#7 ++ 0b0000#4 ++ 0b0001#4) = .ok .init := by rfl

theorem test_decode_start : decode (0x0000#16 ++ 0b0#1 ++ 0b0000000#7 ++ 0b0000#4 ++ 0b0010#4) = .ok .start := by rfl

theorem test_decode_stop : decode (0x0000#16 ++ 0b0#1 ++ 0b0000000#7 ++ 0b0000#4 ++ 0b0011#4) = .ok .stop := by rfl

theorem test_decode_sendAddr :
    decode (0x0000#16 ++ 0b1#1 ++ 0b1010000#7 ++ 0b0000#4 ++ 0b0100#4) = .ok (.sendAddr 0x50 .read) := by rfl

theorem test_decode_sendAddr_write :
    decode (0x0000#16 ++ 0b0#1 ++ 0b0000001#7 ++ 0b0000#4 ++ 0b0100#4) = .ok (.sendAddr 0x01 .write) := by rfl

theorem test_decode_sendByte :
    decode (0x0000#16 ++ 0b10101010#8 ++ 0b0000#4 ++ 0b0101#4) = .ok (.sendByte 0xAA) := by rfl

theorem test_decode_waitAck : decode (0x0000#16 ++ 0b00000000#8 ++ 0b0000#4 ++ 0b0110#4) = .ok .waitAck := by rfl

theorem test_decode_ack : decode (0x0000#16 ++ 0b00000000#8 ++ 0b0000#4 ++ 0b0111#4) = .ok .ack := by rfl

theorem test_decode_readByte : decode (0x0000#16 ++ 0b00000000#8 ++ 0b0000#4 ++ 0b1000#4) = .ok .readByte := by rfl

theorem test_decode_writeTxn :
    decode (0b0000000000000010#16 ++ 0b0#1 ++ 0b1010000#7 ++ 0b0000#4 ++ 0b1001#4) = .ok (.writeTxn 0x50 2) := by rfl

theorem test_decode_writeTxn_longest : decode 0xFFFF0009 = .ok (.writeTxn 0x00 65535) := by rfl

/-- 30_encoding.md R118: the words as the spec gives them. -/
theorem test_encode_words :
    encode .init = 0x00000001 ∧ encode .start = 0x00000002 ∧ encode .stop = 0x00000003 ∧
    encode (.sendAddr 0x50 .write) = 0x00005004 ∧ encode (.sendAddr 0x7F .read) = 0x0000FF04 ∧
    encode (.sendByte 0xAA) = 0x0000AA05 ∧ encode .waitAck = 0x00000006 ∧ encode .ack = 0x00000007 ∧
    encode .readByte = 0x00000008 ∧ encode (.writeTxn 0x3C 3) = 0x00033C09 := by decide

/-- 95_test_vectors.md part 2 E: illegal words, by reason. -/
theorem test_illegal_reserved :
    decode 0x00000011 = .error .reservedBits ∧ decode 0x000000F3 = .error .reservedBits := ⟨rfl, rfl⟩

theorem test_illegal_opcode :
    decode 0x00000000 = .error .opcode ∧ decode 0x0000000A = .error .opcode ∧ decode 0x0000000F = .error .opcode :=
  ⟨rfl, rfl, rfl⟩

theorem test_illegal_argument :
    decode 0x00000101 = .error .argument ∧ decode 0x00000206 = .error .argument ∧
    decode 0x00008009 = .error .argument := ⟨rfl, rfl, rfl⟩

theorem test_illegal_length :
    decode 0x80000008 = .error .length ∧ decode 0x00010004 = .error .length ∧
    decode 0x8000FF05 = .error .length := ⟨rfl, rfl, rfl⟩

theorem test_decodeTableWord : decodeTableWord 32 0x00025009 = some (.writeTxn 0x50 2) := by rfl

theorem test_decodeTableWord_illegal : decodeTableWord 32 0x00000000 = none := by rfl

/-- W8: the address frame. -/
theorem test_addressFrame : addressFrame 0x50 .write = 0xA0 ∧ addressFrame 0x7F .read = 0xFF := by decide

/-! ### The host window (95_test_vectors.md part 2 A, H) -/

/-- A: RESET, START is refused with ERR_NOINIT and STATUS reads 0x10. -/
theorem test_offer_noinit : statusWord (hostWrite 0x000 .word 0x00000002 idle) = 0x00000010 := by rfl

/-- A: RESET, 0xFFFF0009 is refused with ERR_NOINIT, not ERR_LEN. -/
theorem test_offer_noinit_before_len : statusWord (hostWrite 0x000 .word 0xFFFF0009 idle) = 0x00000010 := by rfl

/-- A: RESET, 0x00000011 is refused with ERR_ILLEGAL, not ERR_NOINIT. -/
theorem test_offer_illegal_first : statusWord (hostWrite 0x000 .word 0x00000011 idle) = 0x00000004 := by rfl

/-- A: AFTER_INIT, 0x01010009 (X-7) sets ERR_LEN, and 0x01000009 is accepted. -/
theorem test_offer_len :
    statusWord (hostWrite 0x000 .word 0x01010009 afterInit) = 0x00000022 ∧
    statusWord (hostWrite 0x000 .word 0x01000009 afterInit) = 0x00000003 := by decide

/-- A: BUSY = 1, an illegal word sets ERR_OVERRUN only. -/
theorem test_offer_overrun :
    statusWord (hostWrite 0x000 .word 0x00000000 (running .start .main 2 afterInit)) = 0x0000000B := by rfl

/-- H-2: a 32-bit TXBUF write, read back by bytes and halves. -/
theorem test_txbuf_littleEndian :
    (readData 0x100 .byte (hostWrite 0x100 .word 0x44332211 idle)).1 = 0x11 ∧
    (readData 0x103 .byte (hostWrite 0x100 .word 0x44332211 idle)).1 = 0x44 ∧
    (readData 0x102 .half (hostWrite 0x100 .word 0x44332211 idle)).1 = 0x4433 := by exact ⟨rfl, rfl, rfl⟩

/-- H-3, H-4, H-5, H-6: the error responses are recorded. -/
theorem test_busErrors :
    (hostWrite 0x101 .half 0xBEEF idle).busErrors = [{ off := 0x101, size := .half }] ∧
    (readData 0x004 .byte idle).2.busErrors = [{ off := 0x004, size := .byte }] ∧
    (readData 0x014 .word idle).2.busErrors = [{ off := 0x014, size := .word }] ∧
    (hostWrite 0x200 .byte 0x01 idle).busErrors = [{ off := 0x200, size := .byte }] := by exact ⟨rfl, rfl, rfl, rfl⟩

/-- H-7: the last TXBUF byte. -/
theorem test_txbuf_last : Memory.read (hostWrite 0x1FF .byte 0x7E idle).txbuf 255 = some 0x7E := by decide

/-- H-8, H-9: write one to clear. -/
theorem test_statusClear :
    statusWord (hostWrite 0x004 .word 0x00000010 { idle with errIllegal := true, errNoinit := true }) = 0x00000004 ∧
    statusWord (hostWrite 0x004 .word 0xFFFFFFFF { idle with errIllegal := true, errNoinit := true }) = 0 :=
  ⟨rfl, rfl⟩

/-- H-11: BUSY = 1, a TXBUF write stores nothing and sets ERR_OVERRUN. -/
theorem test_txbuf_busy :
    hostWrite 0x100 .byte 0x99 (running .stop .main 1 afterInit) =
      { running .stop .main 1 afterInit with errOverrun := true } := by rfl

/-- H-14: LINES after reset. -/
theorem test_lines_reset : (readData 0x010 .word idle).1 = 0x00000003 := by rfl

/-! ### Single steps -/

/-- B-1: the first event of INIT. -/
theorem test_step_init : (afterStep (running .init .main 0 idle)).trace = [.dir .output] := by rfl

/-- B-1: the last step of INIT ends it with INIT_DONE set, STATUS 0x2, LINES 0x4. -/
theorem test_step_init_last :
    statusWord (afterStep (running .init .main 2 { idle with sdaDir := .output, scl := .low })) = 0x00000002 ∧
    linesWord (afterStep (running .init .main 2 { idle with sdaDir := .output, scl := .low })) = 0x4 := by
  exact ⟨rfl, rfl⟩

/-- B-3: event 4 of START is `A0`, a start condition. -/
theorem test_step_start : startCondition afterStop (afterStep (running .start .main 4 afterStop)) = true := by rfl

/-- B-4: event 2 of START from AFTER_INIT is a stop condition. -/
theorem test_step_start_from_init :
    stopCondition (running .start .main 2 { afterInit with scl := .high })
      (afterStep (running .start .main 2 { afterInit with scl := .high })) = true := by rfl

/-- B-6: event 6 of STOP is a stop condition. -/
theorem test_step_stop :
    stopCondition (running .stop .main 6 { afterInit with scl := .high })
      (afterStep (running .stop .main 6 { afterInit with scl := .high })) = true := by rfl

/-- B-6: the last step of STOP, at `W4`. -/
theorem test_step_stop_last : (afterStep (running .stop .main 7 { afterStop with phase := .stop })).phase = .idle := by
  rfl

/-- T-1: the first data bit of frame 0xA0 is 1, the second 0. -/
theorem test_step_sendAddr :
    (afterStep (running (.sendAddr 0x50 .write) .main 1 { afterInit with shift := 0xA0 })).trace = [.sda .high] ∧
    (afterStep (running (.sendAddr 0x50 .write) .main 6 { afterInit with shift := 0xA0 })).trace = [.sda .low] := by
  exact ⟨rfl, rfl⟩

/-- T-1: the frame is loaded and the phase set in the first step. -/
theorem test_step_sendAddr_first :
    (afterStep (running (.sendAddr 0x50 .read) .main 0 afterInit)).shift = 0xA1 ∧
    (afterStep (running (.sendAddr 0x50 .read) .main 0 afterInit)).phase = .address := by exact ⟨rfl, rfl⟩

/-- W3: the last data bit of 0x01 is 1. -/
theorem test_step_sendByte :
    (afterStep (running (.sendByte 0x01) .main 36 { afterInit with shift := 0x01 })).trace = [.sda .high] := by rfl

/-- T-4: the last step of SEND_BYTE is `A1`, LINES 0x6. -/
theorem test_step_sendByte_last :
    linesWord (afterStep (running (.sendByte 0x00) .main 41 { afterInit with phase := .data })) = 0x6 ∧
    (afterStep (running (.sendByte 0x00) .main 41 { afterInit with phase := .data })).busy = false := by
  exact ⟨rfl, rfl⟩

/-- T-8: the 100th sample LOW is an acknowledgment. -/
theorem test_step_waitAck_acked :
    (afterStep (running .waitAck (.poll .address) 0 { afterAcked with scl := .high, polls := 98, slave := [.low] })).upc
      = { block := .acked .address, pos := 0 } := by rfl

/-- T-9: the 100th sample HIGH is a timeout. -/
theorem test_step_waitAck_timeout :
    (afterStep (running .waitAck (.poll .address) 0 { afterAcked with scl := .high, polls := 98, slave := [.high] })).upc
      = { block := .timeout .address, pos := 0 } := by rfl

/-- R-1: the last step of ACK, LINES 0x4. -/
theorem test_step_ack_last :
    linesWord (afterStep (running .ack .main 6 { afterInit with scl := .high, phase := .data })) = 0x4 := by rfl

/-- R-2: the first event of ACK is `C0`. -/
theorem test_step_ack : (afterStep (running .ack .main 0 afterStop)).trace = [.scl .low] := by rfl

/-- R-3a: the step after the second sample inserts bit 6. -/
theorem test_step_readByte :
    (afterStep (running .readByte .main 11 { afterAcked with acc := 0x80, sampled := .high })).acc = 0xC0 := by rfl

/-- R-3a: the last step of READ_BYTE writes RXDATA. -/
theorem test_step_readByte_last :
    (afterStep (running .readByte .main 47 { afterInit with scl := .high, acc := 0xB4 })).rxdata = 0xB4 := by rfl

/-- X-3: after the address, the first payload byte is sent. -/
theorem test_step_writeTxn_payload :
    (afterStep (running (.writeTxn 0x50 2) (.payload .address) 0
      { afterAcked with txbuf := [(0, 0xAA), (1, 0x55)], polls := 1 })).shift = 0xAA := by rfl

/-- X-5: a timeout on payload byte 0 reports NO_ACK_DATA with index 0, RESULT 0x6432. -/
theorem test_step_writeTxn_noAck :
    resultWord (afterStep (running (.writeTxn 0x3C 3) (.timeout .payload) 7
      { afterStop with polls := 100, idx := 0 })) = 0x00006432 := by rfl

/-- Z-9: the reset input in the middle of a START. -/
theorem test_step_reset :
    afterStep { running .start .main 4 afterStop with turns := [.reset] } = idle := by rfl

/-- withFetchWord at reset: the next step is the first of the word's command. -/
theorem test_withFetchWord :
    step (State.withFetchWord State.reset 32 0x00005004) =
      exec (.sendAddr 0x50 .write) (State.withFetchWord State.reset 32 0x00005004) := by rfl

/-! ### The assembly syntax (30_encoding.md R119, R120) -/

theorem test_asm_issue :
    assembleLine "ISSUE SEND_ADDR 0x3C, W" =
      some [.write 0x000 .word 0x00003C04, .poll 0x004 0x1 0x0] := by decide

theorem test_asm_host :
    assembleLine "WR.h 0x101, 0xBEEF" = some [.write 0x101 .half 0x0000BEEF] ∧
    assembleLine "RD.b 0x103" = some [.read 0x103 .byte] ∧
    assembleLine "POLL 0x004, 0x1, 0x0" = some [.poll 0x004 0x1 0x0] := by decide

theorem test_asm_write :
    assembleLine "WRITE 0x50, [0xAA, 0x55]" =
      some [.write 0x100 .byte 0xAA, .write 0x101 .byte 0x55, .write 0x000 .word 0x00025009, .poll 0x004 0x1 0x0] := by
  decide

theorem test_asm_byteLists :
    assembleLine "WRITE 0x50, [0xAA,]" = none ∧
    assembleLine "WRITE 0x50, []" = some [.write 0x000 .word 0x00005009, .poll 0x004 0x1 0x0] := by decide

theorem test_asm_refuses :
    assembleLine "ISSUE SEND_ADDR 128, W" = none ∧ assembleLine "ISSUE SEND_BYTE 256" = none ∧
    assembleLine "ISSUE WRITE_TXN 0x50, 65536" = none := by decide

/-! ### States that meet the statements' hypotheses -/

theorem test_witness_decodedWord : decode 0xFFFF7F09 = .ok (.writeTxn 0x7F 65535) := by rfl

theorem test_witness_commandAcceptance :
    (running .stop .main 1 afterInit).busy = true ∧ (idle.busy = false ∧ decode 0x0000000A = .error .opcode) ∧
    (decode 0x00000002 = .ok .start ∧ idle.initDone = false) ∧
    (decode 0x01010009 = .ok (.writeTxn 0 257) ∧ afterInit.initDone = true ∧ afterInit.txbufSize < 257) ∧
    (decode 0x00000001 = .ok .init ∧ decode 0x01000009 = .ok (.writeTxn 0 256) ∧ 256 ≤ afterInit.txbufSize) := by
  exact ⟨rfl, ⟨rfl, rfl⟩, ⟨rfl, rfl⟩, ⟨rfl, rfl, by decide⟩, rfl, rfl, by decide⟩

/-- The accesses at the edges: just past LINES, the last half that sticks out of TXBUF, the first byte past it. -/
theorem test_witness_errorResponse :
    (∀ p ∈ [((0x014 : Offset), Size.word), (0x004, .byte), (0x101, .half), (0x0FF, .byte), (0x1FF, .half),
        (0x200, .byte)],
      ¬ (p.2 = .word ∧ p.1.toNat ∈ [0x000, 0x004, 0x008, 0x00C, 0x010]) ∧
      ¬ (0x100 ≤ p.1.toNat ∧ p.1.toNat + sizeBytes p.2 ≤ 0x100 + idle.txbufSize ∧
        p.1.toNat % sizeBytes p.2 = 0)) := by decide

theorem test_witness_busErrorsNeverCleared :
    ∃ t, step { idle with hostProg := [.read 0x014 .word] } = .next t ∧ t.busErrors ≠ [] :=
  ⟨_, rfl, by decide⟩

/-- The whole of TXBUF, first byte and last word, idle and busy. -/
theorem test_witness_txbufWrite :
    idle.MemoryOk ∧ idle.busy = false ∧ (running .stop .main 1 afterInit).MemoryOk ∧
    (running .stop .main 1 afterInit).busy = true ∧
    (0x100#12).toNat = 0x100 + 0 ∧ 0 + sizeBytes .byte ≤ idle.txbufSize ∧ (0x100#12).toNat % sizeBytes .byte = 0 ∧
    (0x1FC#12).toNat = 0x100 + 252 ∧ 252 + sizeBytes .word ≤ idle.txbufSize ∧
    (0x1FC#12).toNat % sizeBytes .word = 0 := by
  exact ⟨rfl, rfl, rfl, rfl, by decide, by decide, by decide, by decide, by decide, by decide⟩

theorem test_witness_txbufStoreThenLoad :
    idle.MemoryOk ∧ idle.busy = false ∧ 0x100 ≤ (0x1FE#12).toNat ∧
    (0x1FE#12).toNat + sizeBytes .half ≤ 0x100 + idle.txbufSize ∧ (0x1FE#12).toNat % sizeBytes .half = 0 := by
  exact ⟨rfl, rfl, by decide, by decide, by decide⟩

/-- The first byte of TXBUF and its last word. -/
theorem test_witness_txbufRead :
    (0x100#12).toNat = 0x100 + 0 ∧ 0 + sizeBytes .byte ≤ idle.txbufSize ∧ (0x100#12).toNat % sizeBytes .byte = 0 ∧
    (0x1FC#12).toNat = 0x100 + 252 ∧ 252 + sizeBytes .word ≤ idle.txbufSize ∧
    (0x1FC#12).toNat % sizeBytes .word = 0 := by decide

/-- H-12: BUSY = 1, a read of TXBUF returns the stored byte. -/
theorem test_txbuf_read_busy :
    (readData 0x100 .byte { running .stop .main 1 afterInit with txbuf := [(0, 0x99)] }).1 = 0x99 := by rfl

/-- H-13: an unwritten byte is a free value, the next read another draw. -/
theorem test_txbuf_read_unwritten :
    (readData 0x105 .byte idle).1 = (Config.drawByte 0).setWidth 32 ||| (0#32 <<< 8) ∧
    (readData 0x105 .byte (readData 0x105 .byte idle).2).1 = (Config.drawByte 1).setWidth 32 ||| (0#32 <<< 8) :=
  ⟨rfl, rfl⟩

theorem test_witness_hostCannotDisturb :
    ({ running .stop .main 1 afterInit with hostProg := [.write 0x000 .word 0x00000001] } : State).busy = true := by rfl

theorem test_witness_stepRuns :
    (let s := running (.sendByte 0xAA) .main 3 afterInit
     s.busy = true ∧ decode s.cmd = .ok (.sendByte 0xAA) ∧ s.turns = [] ∧ s.hostProg = []) ∧
    (let s := { running (.sendByte 0xAA) .main 3 afterInit with turns := [.engine] }
     s.busy = true ∧ decode s.cmd = .ok (.sendByte 0xAA) ∧ s.turns = .engine :: []) ∧
    (let s := { running (.sendByte 0xAA) .main 3 afterInit with hostProg := waitIdle }
     s.busy = true ∧ decode s.cmd = .ok (.sendByte 0xAA) ∧ s.turns = [] ∧ s.hostProg ≠ [] ∧ s.lead = none ∧
      ({ s with lead := some (2 + 1) } : State).lead = some (2 + 1) ∧
      ({ s with lead := some 0 } : State).lead = some 0) := by
  exact ⟨⟨rfl, rfl, rfl, rfl⟩, ⟨rfl, rfl, rfl⟩, rfl, rfl, rfl, by decide, rfl, rfl, rfl⟩

/-- R152: with both agents ready the engine waits for the host steps drawn, and for no more. -/
theorem test_step_lead :
    (let s := { running .stop .main 1 afterInit with hostProg := waitIdle, lead := some 1 }
     (afterStep s).upc.pos = 1 ∧ (afterStep s).lead = some 0 ∧ (afterStep (afterStep s)).upc.pos = 2) :=
  ⟨rfl, rfl, rfl⟩

/-- The run of INIT with no host program, and then of the idle block. -/
def bootRun : Nat → State
  | 0 => running .init .main 0 idle
  | n + 1 => afterStep (bootRun n)

theorem bootRun_settled (n : Nat) : bootRun (n + 3) = bootRun 3 := by
  induction n with
  | zero => rfl
  | succ n ih =>
    show afterStep (bootRun (n + 3)) = bootRun 3
    rw [ih]
    rfl

theorem test_witness_weaklyFair : (∀ n, step (bootRun n) = .next (bootRun (n + 1))) ∧ (bootRun 0).busy = true := by
  refine ⟨fun n => ?_, rfl⟩
  match n with
  | 0 | 1 | 2 => rfl
  | n + 3 =>
    rw [show n + 3 + 1 = (n + 1) + 3 by omega, bootRun_settled n, bootRun_settled (n + 1)]
    rfl

theorem test_witness_hostTurn :
    ({ idle with turns := [.host] } : State).turns = .host :: [] ∧
    (let s : State := { idle with turns := [.engine] }
     s.turns = .engine :: [] ∧ s.busy = false) ∧
    idle.hostProg = [] ∧
    (let s : State := { idle with hostProg := [.write 0x1FF .byte 0x7E] }
     s.hostProg = .write 0x1FF .byte 0x7E :: []) ∧
    (let s : State := { idle with hostProg := [.read 0x014 .word] }
     s.hostProg = .read 0x014 .word :: []) ∧
    (let s : State := { idle with hostProg := waitIdle }
     s.hostProg = .poll 0x004 0x1 0x0 :: []) := ⟨rfl, ⟨rfl, rfl⟩, rfl, rfl, rfl, rfl⟩

/-- R119: a POLL stays while BUSY = 1 and is done once BUSY = 0. -/
theorem test_hostStep_poll :
    (hostStep { running .stop .main 1 afterInit with hostProg := waitIdle }).hostProg = waitIdle ∧
    (hostStep { idle with hostProg := waitIdle }).hostProg = [] := by decide

theorem test_witness_resetInput :
    ({ running .start .main 4 afterStop with turns := [.reset] } : State).turns = .reset :: [] := by rfl

theorem test_witness_boot :
    let s : State := { idle with hostProg := issue .init, turns := [.host, .engine, .engine, .engine] }
    s.busy = false ∧ s.hostProg = .write 0x000 .word 0x00000001 :: waitIdle ∧
    s.turns = .host :: .engine :: .engine :: .engine :: [] := ⟨rfl, rfl, rfl⟩

/-- The first and the last primitive of every block of the longest command. -/
theorem test_witness_everyPrimitive :
    atPrimitive .waitAck { block := .main, pos := 5 } = true ∧
    atPrimitive (.writeTxn 0x50 2) { block := .payload .payload, pos := 47 } = true ∧
    atPrimitive (.writeTxn 0x50 2) { block := .close .payload, pos := 7 } = true ∧
    atPrimitive .readByte { block := .main, pos := 47 } = true := ⟨rfl, rfl, rfl, rfl⟩

/-- Every command, at its first position: the hypothesis of `EveryCommandBegins` and of the command results. -/
theorem test_witness_everyCommandBegins : idle.upc = { block := .main, pos := 0 } := by rfl

theorem test_witness_everyCommandCompletes (i : Instr) :
    (running i .main 0 idle).busy = true ∧ (running i .main 0 idle).upc = { block := .main, pos := 0 } := ⟨rfl, rfl⟩

/-- An engine step of each command answers a next state: the hypothesis of the frames, of `TimeAdvancesByTheBound` and of
`PhaseIsInformational`. -/
theorem test_witness_execNext (i : Instr) : ∃ t, exec i idle = .next t := by
  cases i <;> exact ⟨_, rfl⟩

/-- A fault: the hypothesis of the second clause of `PhaseIsInformational`. -/
theorem test_witness_execFault :
    exec .init { idle with upc := { block := .main, pos := 3 } } = .fault .sequencerLost := by rfl

theorem test_witness_busAndSendFrame (i : Instr)
    (h : i = .init ∨ i = .start ∨ i = .stop ∨ i = .sendAddr 0x50 .read ∨ i = .sendByte 0xFF ∨ i = .ack) :
    ∃ t, exec i afterInit = .next t := by
  rcases h with rfl | rfl | rfl | rfl | rfl | rfl <;> exact ⟨_, rfl⟩

theorem test_witness_waitReadTransactionFrame :
    (∃ t, exec .waitAck { afterAcked with upc := { block := .acked .address, pos := 0 } } = .next t) ∧
    (∃ t, exec .readByte { afterAcked with upc := { block := .main, pos := 47 } } = .next t) ∧
    (∃ t, exec (.writeTxn 0x50 2) { afterAcked with upc := { block := .payload .payload, pos := 0 } } = .next t) :=
  ⟨⟨_, rfl⟩, ⟨_, rfl⟩, ⟨_, rfl⟩⟩

/-- RXDATA, ACK_RESULT and POLL_COUNT, TXN_STATUS and TXN_INDEX do change in the steps named. -/
theorem test_witness_resultsChange :
    (after idle (exec .readByte { afterInit with acc := 0xB4, upc := { block := .main, pos := 47 } })).rxdata = 0xB4 ∧
    (after idle (exec .waitAck { afterSend with upc := { block := .acked .address, pos := 0 } })).ackResult = .acked ∧
    (after idle (exec .waitAck { afterSend with upc := { block := .acked .address, pos := 0 } })).pollCount = 1 ∧
    (after idle (exec (.writeTxn 0x50 0) { afterSend with upc := { block := .payload .address, pos := 0 } })).ackResult
      = .acked ∧
    (after idle (exec (.writeTxn 0x50 3) { afterStop with idx := 2, upc := { block := .timeout .payload, pos := 7 } })).txnIndex
      = 2 ∧
    (after idle (exec (.writeTxn 0x50 3) { afterStop with idx := 2, upc := { block := .timeout .payload, pos := 7 } })).txnStatus
      = .noAckData := by
  exact ⟨rfl, rfl, rfl, rfl, rfl, rfl⟩

/-- AFTER_STOP, AFTER_INIT, AFTER_SEND: the three entry states of `StartConditions`; AFTER_STOP is that of
`SendWithSclHigh`, with each first bit. -/
theorem test_witness_startConditions :
    (afterStop.scl = .high ∧ sdaLevel afterStop = .high ∧ afterStop.sdaOut = .high) ∧
    (afterInit.scl = .low ∧ afterInit.sdaOut = .low) ∧ (afterSend.scl = .low ∧ afterSend.sdaOut = .high) ∧
    (bit 0x80 0 = .high ∧ bit 0x7F 0 = .low) := by
  decide

theorem test_witness_everyStopSeq :
    (running .stop .main 0 afterInit).upc = { block := .main, pos := 0 } ∧
    (running .waitAck (.timeout .address) 0 afterAcked).upc = { block := .timeout .address, pos := 0 } ∧
    (running (.writeTxn 0x50 2) (.timeout .payload) 0 afterAcked).upc = { block := .timeout .payload, pos := 0 } ∧
    (running (.writeTxn 0x50 0) (.close .address) 0 afterAcked).upc = { block := .close .address, pos := 0 } :=
  ⟨rfl, rfl, rfl, rfl⟩

theorem test_witness_byteFraming :
    afterInit.scl = .low ∧ (running (.sendByte 0xA5) .main 0 afterInit).upc = { block := .main, pos := 0 } ∧
    (0xA1 : Byte) = (0x50 : Addr7) ++ Rw.read.toBit ∧
    (running (.writeTxn 0x50 2) .main 6 afterInit).upc = { block := .main, pos := 6 } ∧
    (0x55 : Byte) = (Memory.read [(0, 0xAA), (1, 0x55)] ((0 : Len) + 1#16).toNat).getD (Config.drawByte 0) ∧
    (0xAA : Byte) = (Memory.read [(0, 0xAA), (1, 0x55)] 0).getD (Config.drawByte 0) := by
  exact ⟨rfl, rfl, rfl, rfl, rfl, rfl⟩

/-- The first and the last sample that can be acknowledged. -/
theorem test_witness_waitAckAcked :
    (let s := { running .waitAck .main 0 afterSend with slave := [.low] }
     1 ≤ 1 ∧ 1 ≤ 100 ∧ s.upc = { block := .main, pos := 0 } ∧ s.slave = List.replicate (1 - 1) .high ++ .low :: []) ∧
    (let s := { running .waitAck .main 0 afterSend with slave := List.replicate 99 Level.high ++ [Level.low] }
     1 ≤ 100 ∧ 100 ≤ 100 ∧ s.upc = { block := .main, pos := 0 } ∧
      s.slave = List.replicate (100 - 1) .high ++ .low :: []) := by
  exact ⟨⟨by decide, by decide, rfl, rfl⟩, by decide, by decide, rfl, rfl⟩

theorem test_witness_waitAckTimeout :
    let s := { running .waitAck .main 0 afterSend with slave := List.replicate 100 .high }
    s.upc = { block := .main, pos := 0 } ∧ s.slave = List.replicate 100 .high ++ [] ∧ s.scl = .low ∧
      s.sdaDir = .output ∧ s.sdaOut = .high := ⟨rfl, rfl, rfl, rfl, rfl⟩

/-- AFTER_SEND, AFTER_INIT, AFTER_STOP, AFTER_WAIT_ACKED: the entry states of `WaitAckEntryStates`. -/
theorem test_witness_waitAckEntry :
    (afterSend.scl = .low ∧ afterSend.sdaDir = .output ∧ afterSend.sdaOut = .high) ∧
    (afterInit.scl = .low ∧ afterInit.sdaDir = .output ∧ afterInit.sdaOut = .low) ∧
    (afterStop.scl = .high ∧ afterStop.sdaDir = .output ∧ afterStop.sdaOut = .high) ∧ afterAcked.sdaDir = .input := by
  decide

theorem test_witness_sdaIgnored :
    ∃ u t, execN .waitAck 2 (running .waitAck .main 0 afterAcked) = .next u ∧ exec .waitAck u = .next t ∧
      t.trace = u.trace ++ [.sdaIgnored .high] := ⟨_, _, rfl, rfl, rfl⟩

theorem test_witness_sample :
    ∃ u t, execN .waitAck 5 { running .waitAck .main 0 afterSend with slave := [.low] } = .next u ∧
      exec .waitAck u = .next t ∧ t.trace = u.trace ++ [.sample .low] := ⟨_, _, rfl, rfl, rfl⟩

theorem test_witness_ignoredWrite :
    (running .waitAck .main 2 afterAcked).upc = { block := .main, pos := 2 } ∧
    (running .waitAck .main 2 afterAcked).sdaDir = .input := ⟨rfl, rfl⟩

theorem test_witness_ackSeq :
    (running .ack .main 0 afterAcked).upc = { block := .main, pos := 0 } ∧
    (running .readByte .main 41 afterAcked).upc = { block := .main, pos := 41 } := ⟨rfl, rfl⟩

/-- R-3a: samples 1,0,1,1,0,1,0,0 are the bits of 0xB4. -/
theorem test_witness_readByteRoundTrip :
    let s := { running .readByte .main 0 afterAcked with slave := [.high, .low, .high, .high, .low, .high, .low, .low] }
    s.upc = { block := .main, pos := 0 } ∧ s.slave = (List.range 8).map (bit 0xB4) ++ [] := ⟨rfl, rfl⟩

theorem test_witness_rxdataKept :
    ∃ u, execN .readByte 47 (running .readByte .main 0 afterAcked) = .next u :=
  ⟨_, Laws.execN_inside .readByte .main 47 0 _ rfl (by decide)⟩

theorem test_witness_writeTxnAbort :
    let s := { running (.writeTxn 0x3C 3) .main 0 afterStop with
               txbuf := [(0, 0x11), (1, 0x22), (2, 0x33)]
               slave := [Level.low] ++ List.replicate 99 Level.high ++ [Level.low] ++ List.replicate 100 Level.high }
    s.upc = { block := .main, pos := 0 } ∧ 1 ≤ 1 ∧ 1 ≤ 100 ∧ 100 ≤ 100 ∧ Memory.read s.txbuf 0 = some 0x11 ∧
    Memory.read s.txbuf 1 = some 0x22 ∧ Memory.read s.txbuf 2 = some 0x33 ∧
    s.slave = List.replicate (1 - 1) .high ++ [.low] ++ List.replicate (100 - 1) .high ++ [.low]
      ++ List.replicate 100 .high ++ [] :=
  ⟨rfl, by decide, by decide, by decide, rfl, rfl, rfl, by simp⟩

/-- A sound state in the middle of a WRITE_TXN, with a written byte, results and a trace. -/
def midTransaction : State :=
  { running (.writeTxn 0x50 2) (.payload .address) 3 afterAcked with
    polls := 1, idx := 1, txbuf := [(0, 0xAA), (255, 0x55)], txnStatus := .noAckData, txnIndex := 255,
    trace := [.delay 4], time := 4 }

theorem test_witness_sound : midTransaction.Inv := by
  refine ⟨⟨by decide, by decide⟩, rfl, fun _ => ⟨.writeTxn 0x50 2, rfl, ⟨.inl rfl, by decide⟩, rfl⟩,
    fun _ => ⟨?_, ?_⟩, ?_, ?_⟩
  · exact fun h => absurd h (by decide)
  · intro a len h
    have hl : len = 2 := by
      have : decode midTransaction.cmd = .ok (.writeTxn 0x50 2) := rfl
      simp_all
    subst hl
    show 1 < 2
    decide
  · show (_ ∧ _) ∧ (_ : Nat) < _
    decide
  · show ((4 : Nat) : Rat) ≤ 4
    decide

theorem test_witness_soundStep : ∃ t, step midTransaction = .next t := ⟨_, rfl⟩

/-- A host write of the last TXBUF byte of a canonical TXBUF. -/
theorem test_witness_stepKeepsMemory :
    let s : State := { afterInit with txbuf := [(0, 0xAA)], hostProg := [.write 0x1FF .byte 0x7E] }
    s.MemoryOk ∧ ∃ t, step s = .next t := ⟨rfl, _, rfl⟩

theorem test_witness_initDoneChanges :
    (∃ t, step { afterInit with turns := [.reset] } = .next t ∧ t.initDone ≠ afterInit.initDone) ∧
    (∃ t, step (running .init .main 2 idle) = .next t ∧ t.initDone ≠ idle.initDone) :=
  ⟨⟨_, rfl, by decide⟩, ⟨_, rfl, by decide⟩⟩

theorem test_witness_runningCommand :
    let s := running .stop .main 7 afterStop
    s.busy = true ∧ s.turns.head? ≠ some .reset ∧ ∃ t, step s = .next t ∧ t.busy = false :=
  ⟨rfl, by decide, _, rfl, rfl⟩

end Sys2Proof.Tests
end

section
/-! O55. The reset state meets each part of the invariant. -/

namespace Sys2Proof.Machine.Proofs
open Sys2Proof.Machine.Laws

/-- The model's open parameter TXBUF_SIZE is in the range of 00_scope.md R11, whatever its value. -/
theorem txbufSize_range : 1 ≤ Config.txbufSize ∧ Config.txbufSize ≤ Config.txbufSizeMax :=
  ⟨Nat.le_add_left 1 _, Config.txbufSizePred.isLt⟩

/-- Reset clears BUSY (10_state.md R64). -/
theorem reset_not_busy : State.reset.busy ≠ true := Bool.false_ne_true

/-- RESULT reads "no wait" and "no transaction" after reset, with POLL_COUNT and TXN_INDEX 0 (10_state.md R64). -/
theorem reset_resultOk : State.reset.ResultOk := ⟨rfl, rfl⟩

/-- After reset no time has elapsed and the empty trace asks for none (10_state.md R64, 40_bit_sequencer.md R147). -/
theorem reset_timeOk : State.reset.TimeOk := by
  have hbound : traceBound State.reset.trace = 0 := rfl
  have htime : State.reset.time = 0 := rfl
  simp [State.TimeOk, hbound, htime]

/-- Settles O55: TXBUF_SIZE is in range, TXBUF is empty, no command runs, RESULT and the elapsed time are at their
reset values. -/
theorem resetIsSound : Obligations.ResetIsSound := by
  have hsize : State.reset.SizeOk := txbufSize_range
  have hmemory : State.reset.MemoryOk := wf_reset
  have hsequencer : State.reset.SequencerOk := fun hbusy => absurd hbusy reset_not_busy
  have hcounters : State.reset.CountersOk := fun hbusy => absurd hbusy reset_not_busy
  exact ⟨hsize, hmemory, hsequencer, hcounters, reset_resultOk, reset_timeOk⟩

end Sys2Proof.Machine.Proofs
end

section
/-! What one engine step of a command can be, and what it makes of the counters and of the registers a command
reports in. The pseudocode tables are looked into here once; the statements about the state's parts follow from it. -/

namespace Sys2Proof.Machine.Proofs
open Sys2Proof.Machine.Laws Sys2Proof.Expected

/-! ### The counters and the registers a command reports in -/

/-- The fields in which a command counts and reports: INIT_DONE, RESULT, RXDATA, `s.polls` and `s.idx`
(10_state.md R43, R51 to R55, R59). -/
structure Ledger where
  initDone : Bool
  ackResult : AckResult
  pollCount : Byte
  txnStatus : TxnStatus
  txnIndex : Len
  rxdata : Byte
  polls : Byte
  idx : Len

/-- The counters and reports of a state. -/
def ledger (s : State) : Ledger where
  initDone := s.initDone
  ackResult := s.ackResult
  pollCount := s.pollCount
  txnStatus := s.txnStatus
  txnIndex := s.txnIndex
  rxdata := s.rxdata
  polls := s.polls
  idx := s.idx

theorem ledger_prim (p : Prim) (s : State) : ledger (p.perform s) = ledger s := by simp [ledger]

theorem ledger_run (op : MicroOp) (s : State) : ledger (op.run s) = ledger (runStmts op.before s) :=
  ledger_prim op.prim _

/-- Statements that neither count nor report. -/
def silentStmt : Stmt → Bool
  | .phase _ | .loadShift _ | .loadPayload | .clearAcc | .insertAcc _ => true
  | .initDone | .clearPolls | .countPoll | .storeRxdata | .ackResult _ | .clearIdx | .countIdx | .txnStatus _
  | .txnNoAckData => false

/-- Pseudocode in which nothing is counted or reported. -/
def silentCode (ops : List MicroOp) : Bool := ops.all fun op => op.before.all silentStmt

theorem ledger_silentStmt {c : Stmt} (h : silentStmt c = true) (s : State) : ledger (c.run s) = ledger s := by
  cases c with
  | phase | loadShift | loadPayload | clearAcc | insertAcc => rfl
  | initDone | clearPolls | countPoll | storeRxdata | ackResult | clearIdx | countIdx | txnStatus | txnNoAckData =>
    cases h

theorem ledger_silentStmts {cs : List Stmt} (h : cs.all silentStmt = true) (s : State) :
    ledger (runStmts cs s) = ledger s := by
  induction cs generalizing s with
  | nil => rfl
  | cons c cs ih =>
    simp only [List.all_cons, Bool.and_eq_true] at h
    rw [runStmts_cons, ih h.2, ledger_silentStmt h.1]

theorem ledger_silentCode {ops : List MicroOp} (h : silentCode ops = true) {op : MicroOp} (hop : op ∈ ops) (s : State) :
    ledger (op.run s) = ledger s := by
  rw [ledger_run, ledger_silentStmts (List.all_eq_true.mp h op hop)]

theorem ledger_afterSample (f : Frame) (s : State) : ledger (afterSample f s) = ledger s := by
  obtain ⟨b, h, -⟩ := afterSample_goto f s
  rw [h]
  rfl

theorem ledger_nextFrame (len : Len) (f : Frame) (s : State) : ledger (nextFrame len f s) = ledger s := by
  obtain ⟨b, h, -⟩ := nextFrame_goto len f s
  rw [h]
  rfl

/-! ### The pseudocode of each block -/

/-- The commands with a wait for an acknowledgment in them. -/
def waits : Instr → Bool
  | .waitAck | .writeTxn _ _ => true
  | .init | .start | .stop | .sendAddr _ _ | .sendByte _ | .ack | .readByte => false

/-- The first Sample of a wait (42_transmit.md R197). -/
def firstSample : MicroOp := { before := [.clearPolls], prim := .sample }

theorem mainCode_silent {i : Instr} (h : waits i = false) : silentCode (commandCode i .main) = true := by
  cases i with
  | init | start | stop | sendAddr | sendByte | ack | readByte => rfl
  | waitAck | writeTxn => cases h

theorem mainCode_waits {i : Instr} (h : waits i = true) :
    ∃ ops, silentCode ops = true ∧ commandCode i .main = ops ++ [firstSample] := by
  cases i with
  | waitAck => exact ⟨waitSeq.dropLast, rfl, rfl⟩
  | writeTxn a len => exact ⟨(writeTxnCode a .main).dropLast, rfl, rfl⟩
  | init | start | stop | sendAddr | sendByte | ack | readByte => cases h

/-- A block other than the main one is WRITE_TXN's, which WAIT_ACK shares where it has the block at all. -/
theorem commandCode_eq_writeTxnCode (i : Instr) {b : Block} (hb : b ≠ .main) :
    commandCode i b = [] ∨ ∃ a, commandCode i b = writeTxnCode a b := by
  cases i with
  | writeTxn a len => exact .inr ⟨a, rfl⟩
  | waitAck =>
    cases b with
    | main => exact absurd rfl hb
    | poll f | acked f | timeout f =>
      cases f with
      | address => exact .inr ⟨0, rfl⟩
      | payload => exact .inl rfl
    | payload f | close f => exact .inl rfl
  | init | start | stop | sendAddr | sendByte | ack | readByte =>
    cases b with
    | main => exact absurd rfl hb
    | poll | acked | timeout | payload | close => exact .inl rfl

theorem pollCode_length (i : Instr) (f : Frame) : (commandCode i (.poll f)).length ≤ 1 := by
  rcases commandCode_eq_writeTxnCode i (b := .poll f) nofun with hc | ⟨a, hc⟩ <;> rw [hc]
  · exact Nat.zero_le 1
  · exact Nat.le_refl 1

theorem ackedCode_length (i : Instr) (f : Frame) : (commandCode i (.acked f)).length ≤ 1 := by
  rcases commandCode_eq_writeTxnCode i (b := .acked f) nofun with hc | ⟨a, hc⟩ <;> rw [hc]
  · exact Nat.zero_le 1
  · exact Nat.le_refl 1

/-- Only WRITE_TXN has blocks of a payload frame and of a final STOP_SEQ (44_transaction.md R240). -/
theorem txnCode_eq (i : Instr) (f : Frame) :
    (commandCode i (.payload f) = [] ∧ commandCode i (.close f) = []) ∨ ∃ a len, i = .writeTxn a len := by
  cases i with
  | writeTxn a len => exact .inr ⟨a, len, rfl⟩
  | init | start | stop | sendAddr | sendByte | waitAck | ack | readByte => exact .inl ⟨rfl, rfl⟩

/-! ### What a primitive's statements make of the counters and reports -/

/-- The index of the payload byte after frame `f` (44_transaction.md R240). -/
def idxAfter (idx : Len) : Frame → Len
  | .address => 0#16
  | .payload => idx + 1#16

/-- The counters and reports after the primitive at position `u` of command `i`, from those before it. -/
def Ledger.after (i : Instr) (u : Upc) (l : Ledger) : Ledger :=
  match u.block with
  | .main => if waits i = true ∧ u.pos + 1 = (commandCode i .main).length then { l with polls := 0#8 } else l
  | .poll _ | .acked _ => { l with polls := l.polls + 1#8 }
  | .timeout _ => if u.pos = 0 then { l with polls := l.polls + 1#8 } else l
  | .payload f =>
    if u.pos = 0 then { l with ackResult := .acked, pollCount := l.polls, idx := idxAfter l.idx f }
    else if u.pos = 47 then { l with polls := 0#8 } else l
  | .close f => if u.pos = 0 then { l with ackResult := .acked, pollCount := l.polls, idx := idxAfter l.idx f } else l

theorem mem_of_getElem?_concat {α : Type} {xs : List α} {x y : α} {p : Nat} (h : (xs ++ [x])[p]? = some y) :
    p < xs.length ∧ y ∈ xs ∨ p = xs.length ∧ y = x := by
  grind

theorem mem_of_getElem?_cons {α : Type} {xs : List α} {x y : α} {p : Nat} (h : (x :: xs)[p]? = some y) :
    p = 0 ∧ y = x ∨ p ≠ 0 ∧ y ∈ xs := by
  grind

theorem ledger_idxStmt (f : Frame) (s : State) :
    ledger ((idxStmt f).run s) = { ledger s with idx := idxAfter s.idx f } := by
  cases f <;> rfl

/-- The main block clears `s.polls` where it ends in a first Sample, and counts and reports nothing else. -/
theorem ledger_mainOp {i : Instr} {p : Nat} {op : MicroOp} (hop : (commandCode i .main)[p]? = some op) (s : State) :
    ledger (op.run s) = (ledger s).after i { block := .main, pos := p } := by
  cases hw : waits i with
  | false =>
    rw [ledger_silentCode (mainCode_silent hw) (List.mem_of_getElem? hop)]
    simp [Ledger.after, hw]
  | true =>
    obtain ⟨ops, hs, hc⟩ := mainCode_waits hw
    rw [hc] at hop
    rcases mem_of_getElem?_concat hop with ⟨hp, hm⟩ | ⟨hp, rfl⟩
    · rw [ledger_silentCode hs hm]
      simp [Ledger.after, hw, hc, hp.ne]
    · rw [ledger_run]
      simp [Ledger.after, hw, hc, hp, firstSample, Stmt.run, ledger]

/-- The payload block reports the acknowledgment before it, sends a byte, and takes the first Sample of the wait after
it (44_transaction.md R240). -/
theorem payloadCode_eq (a : Addr7) (f : Frame) :
    ∃ ops, ops.length = 46 ∧ silentCode ops = true ∧ writeTxnCode a (.payload f) =
      { before := [.ackResult .acked, idxStmt f, .phase .data, .loadPayload], prim := .setDir .output }
        :: (ops ++ [firstSample]) :=
  ⟨(writeTxnCode a (.payload f)).tail.dropLast, rfl, rfl, rfl⟩

/-- The blocks of WRITE_TXN after the main one, each with its first primitive's statements. -/
theorem ledger_writeTxnOp {a : Addr7} {i : Instr} {b : Block} {p : Nat} {op : MicroOp} (hb : b ≠ .main)
    (hop : (writeTxnCode a b)[p]? = some op) (s : State) :
    ledger (op.run s) = (ledger s).after i { block := b, pos := p } := by
  cases b with
  | main => exact absurd rfl hb
  | poll f | acked f =>
    rcases mem_of_getElem?_cons hop with ⟨-, rfl⟩ | ⟨-, hm⟩
    · exact ledger_run _ s
    · cases hm
  | timeout f =>
    rcases mem_of_getElem?_cons hop with ⟨rfl, rfl⟩ | ⟨hp, hm⟩
    · exact ledger_run _ s
    · rw [ledger_silentCode rfl hm]
      simp [Ledger.after, hp]
  | close f =>
    rcases mem_of_getElem?_cons hop with ⟨rfl, rfl⟩ | ⟨hp, hm⟩
    · rw [ledger_run]
      exact ledger_idxStmt f _
    · rw [ledger_silentCode rfl hm]
      simp [Ledger.after, hp]
  | payload f =>
    obtain ⟨ops, hlen, hs, hc⟩ := payloadCode_eq a f
    rw [hc] at hop
    rcases mem_of_getElem?_cons hop with ⟨rfl, rfl⟩ | ⟨hp, -⟩
    · rw [ledger_run]
      exact ledger_idxStmt f _
    · obtain ⟨q, rfl⟩ := Nat.exists_eq_succ_of_ne_zero hp
      rcases mem_of_getElem?_concat hop with ⟨hq, hm⟩ | ⟨hq, rfl⟩
      · rw [ledger_silentCode hs hm]
        simp [Ledger.after, show q ≠ 46 by omega]
      · rw [ledger_run]
        simp [Ledger.after, hq, hlen, firstSample, Stmt.run, ledger]

/-- What the primitive at the position makes of the counters and reports. -/
theorem ledger_op {i : Instr} {u : Upc} {op : MicroOp} (hop : (commandCode i u.block)[u.pos]? = some op) (s : State) :
    ledger (op.run s) = (ledger s).after i u := by
  obtain ⟨b, p⟩ := u
  by_cases hb : b = .main
  · subst hb
    exact ledger_mainOp hop s
  · dsimp only at hop
    rcases commandCode_eq_writeTxnCode i hb with hc | ⟨a, hc⟩ <;> rw [hc] at hop
    · cases hop
    · exact ledger_writeTxnOp hb hop s

/-! ### What follows for the registers a command reports in -/

theorem Ledger.after_keeps (i : Instr) (u : Upc) (l : Ledger) :
    l.after i u = { l with
      ackResult := (l.after i u).ackResult, pollCount := (l.after i u).pollCount
      polls := (l.after i u).polls, idx := (l.after i u).idx } := by
  obtain ⟨b, p⟩ := u
  cases b with
  | main | timeout | close => simp only [Ledger.after]; split <;> rfl
  | poll | acked => rfl
  | payload =>
    simp only [Ledger.after]
    split
    · rfl
    · split <;> rfl

/-- No statement before a primitive writes INIT_DONE, TXN_STATUS, TXN_INDEX or RXDATA. -/
theorem op_keeps {i : Instr} {u : Upc} {op : MicroOp} (hop : (commandCode i u.block)[u.pos]? = some op) (s : State) :
    (op.run s).initDone = s.initDone ∧ (op.run s).txnStatus = s.txnStatus ∧ (op.run s).txnIndex = s.txnIndex ∧
      (op.run s).rxdata = s.rxdata := by
  have hl := (ledger_op hop s).trans ((ledger s).after_keeps i u)
  exact ⟨congrArg Ledger.initDone hl, congrArg Ledger.txnStatus hl, congrArg Ledger.txnIndex hl,
    congrArg Ledger.rxdata hl⟩

/-- The position of WRITE_TXN's first primitive after an acknowledged wait (44_transaction.md R240). -/
def AfterAcked (u : Upc) : Prop := ∃ f, u = { block := .payload f, pos := 0 } ∨ u = { block := .close f, pos := 0 }

theorem Ledger.after_ack (i : Instr) (u : Upc) (l : Ledger) :
    (l.after i u).ackResult = l.ackResult ∧ (l.after i u).pollCount = l.pollCount ∨
      AfterAcked u ∧ (l.after i u).ackResult = .acked ∧ (l.after i u).pollCount = l.polls := by
  obtain ⟨b, p⟩ := u
  cases b with
  | main | timeout => simp only [Ledger.after]; split <;> exact .inl ⟨rfl, rfl⟩
  | poll | acked => exact .inl ⟨rfl, rfl⟩
  | payload f =>
    by_cases hp : p = 0
    · subst hp; exact .inr ⟨⟨f, .inl rfl⟩, rfl, rfl⟩
    · simp only [Ledger.after, hp, if_false]; split <;> exact .inl ⟨rfl, rfl⟩
  | close f =>
    by_cases hp : p = 0
    · subst hp; exact .inr ⟨⟨f, .inr rfl⟩, rfl, rfl⟩
    · exact .inl (by simp [Ledger.after, hp])

/-- Before a primitive ACK_RESULT and POLL_COUNT are written only to report an acknowledged wait of WRITE_TXN. -/
theorem op_ack {i : Instr} {u : Upc} {op : MicroOp} (hop : (commandCode i u.block)[u.pos]? = some op) (s : State) :
    (op.run s).ackResult = s.ackResult ∧ (op.run s).pollCount = s.pollCount ∨
      AfterAcked u ∧ (op.run s).ackResult = .acked ∧ (op.run s).pollCount = s.polls := by
  have hl := ledger_op hop s
  have hr : (op.run s).ackResult = _ := congrArg Ledger.ackResult hl
  have hc : (op.run s).pollCount = _ := congrArg Ledger.pollCount hl
  rw [hr, hc]
  exact (ledger s).after_ack i u

end Sys2Proof.Machine.Proofs
end

section
/-! How an engine step goes on: inside its block, to another block, or to the command's completion. -/

namespace Sys2Proof.Machine.Proofs
open Sys2Proof.Machine.Laws Sys2Proof.Expected

/-- An engine step that answers a next state performs the primitive at the position; then the position moves on inside
its block, or the block has ended (40_bit_sequencer.md R150). -/
theorem exec_next {i : Instr} {s t : State} (h : exec i s = .next t) :
    ∃ op, (commandCode i s.upc.block)[s.upc.pos]? = some op ∧
      ((s.upc.pos + 1 = (commandCode i s.upc.block).length ∧ t = commandLast i s.upc.block (op.run s)) ∨
        (s.upc.pos + 1 < (commandCode i s.upc.block).length ∧ t = advance (op.run s))) :=
  runCode_next (exec_eq_runCode i s ▸ h)

/-- A straight line of pseudocode ends at its last primitive only. -/
theorem straight_end {ops : List MicroOp} {u : Upc} (h : u.pos + 1 = (straight ops u.block).length) :
    u = { block := .main, pos := ops.length - 1 } := by
  obtain ⟨b, p⟩ := u
  cases b with
  | main => simp only [straight] at h; simp [← h]
  | poll | acked | timeout | payload | close => cases h

/-- Block `b` ends in a Sample of the wait for frame `f` (42_transmit.md R197, 44_transaction.md R240). -/
def SamplesFor (b : Block) (f : Frame) : Prop :=
  b = .main ∧ f = .address ∨ b = .poll f ∨ (∃ g, b = .payload g) ∧ f = .payload

/-- What follows the last primitive of a block: the command's completion, at one of its end positions only; the
decision after a Sample; or the decision after an acknowledged frame of WRITE_TXN. -/
theorem blockEnd_cases {i : Instr} {u : Upc} (h : u.pos + 1 = (commandCode i u.block).length) :
    (atEnd i u ∧ ∃ cs, commandLast i u.block = complete cs) ∨
    (waits i = true ∧ ∃ f, SamplesFor u.block f ∧ commandLast i u.block = afterSample f) ∨
    (∃ a len f, i = .writeTxn a len ∧ u.block = .acked f ∧ commandLast i u.block = nextFrame len f) := by
  cases i with
  | init | start | stop | sendAddr | sendByte | ack | readByte => exact .inl ⟨straight_end h, _, rfl⟩
  | waitAck =>
    obtain ⟨b, p⟩ := u
    cases b with
    | main => exact .inr (.inl ⟨rfl, .address, .inl ⟨rfl, rfl⟩, rfl⟩)
    | poll f =>
      cases f with
      | address => exact .inr (.inl ⟨rfl, .address, .inr (.inl rfl), rfl⟩)
      | payload => cases h
    | acked f =>
      cases f with
      | address => cases h; exact .inl ⟨.inl rfl, _, rfl⟩
      | payload => cases h
    | timeout f =>
      cases f with
      | address => cases h; exact .inl ⟨.inr rfl, _, rfl⟩
      | payload => cases h
    | payload f | close f => cases h
  | writeTxn a len =>
    obtain ⟨b, p⟩ := u
    cases b with
    | main => exact .inr (.inl ⟨rfl, .address, .inl ⟨rfl, rfl⟩, rfl⟩)
    | poll f => exact .inr (.inl ⟨rfl, f, .inr (.inl rfl), rfl⟩)
    | payload f => exact .inr (.inl ⟨rfl, .payload, .inr (.inr ⟨⟨f, rfl⟩, rfl⟩), rfl⟩)
    | acked f => exact .inr (.inr ⟨a, len, f, rfl, rfl, rfl⟩)
    | timeout f => cases h; exact .inl ⟨⟨f, .inl rfl⟩, _, rfl⟩
    | close f => cases h; exact .inl ⟨⟨f, .inr rfl⟩, _, rfl⟩

/-- All an engine step can do to a state after its primitive: complete the command, at an end position only, or move the
position. -/
theorem exec_cases {i : Instr} {s t : State} (h : exec i s = .next t) :
    ∃ op, (commandCode i s.upc.block)[s.upc.pos]? = some op ∧
      ((atEnd i s.upc ∧ ∃ cs, t = complete cs (op.run s)) ∨ (∃ b, t = goto b (op.run s)) ∨ t = advance (op.run s)) := by
  obtain ⟨op, hop, ⟨hend, ht⟩ | ⟨-, ht⟩⟩ := exec_next h
  · refine ⟨op, hop, ?_⟩
    rcases blockEnd_cases hend with ⟨hat, cs, hl⟩ | ⟨-, f, -, hl⟩ | ⟨a, len, f, -, -, hl⟩ <;> rw [hl] at ht
    · exact .inl ⟨hat, cs, ht⟩
    · obtain ⟨b, hb, -⟩ := afterSample_goto f (op.run s)
      exact .inr (.inl ⟨b, ht.trans hb⟩)
    · obtain ⟨b, hb, -⟩ := nextFrame_goto len f (op.run s)
      exact .inr (.inl ⟨b, ht.trans hb⟩)
  · exact ⟨op, hop, .inr (.inr ht)⟩

/-- `s` becomes `t` with one event more, and at least that event's bound elapses (40_bit_sequencer.md R141, R147). -/
def OneEvent (s t : State) : Prop :=
  ∃ e, t.trace = s.trace ++ [e] ∧ s.time + ((eventBound e : Nat) : Rat) ≤ t.time

theorem setSda_oneEvent (v : Level) (s : State) : OneEvent s (setSda v s) := by
  cases hd : s.sdaDir with
  | output => rw [setSda_output v s hd]; exact ⟨_, rfl, by simp [eventBound]⟩
  | input => rw [setSda_input v s hd]; exact ⟨_, rfl, by simp [eventBound]⟩

theorem sampleSda_oneEvent (s : State) : OneEvent s (sampleSda s) := by
  have hpoll : (0 : Rat) ≤ (Config.tPoll : Rat) + (Config.excess s.draws : Rat) := by positivity
  cases hd : s.sdaDir with
  | output => rw [sampleSda_output s hd]; exact ⟨_, rfl, by simpa [eventBound] using hpoll⟩
  | input => rw [sampleSda_input s hd]; exact ⟨_, rfl, by simpa [eventBound] using hpoll⟩

theorem prim_oneEvent (p : Prim) (s : State) : OneEvent s (p.perform s) := by
  cases p with
  | setDir d => exact ⟨_, rfl, by simp [eventBound, Prim.perform, setSdaDir]⟩
  | driveScl v => exact ⟨_, rfl, by simp [eventBound, Prim.perform, setScl]⟩
  | driveSda v => exact setSda_oneEvent v s
  | driveSdaBit i => exact setSda_oneEvent _ s
  | delay d => exact ⟨_, rfl, by simp [eventBound, Prim.perform, waitFor]⟩
  | sample => exact sampleSda_oneEvent s

/-- Every engine step is one event (40_bit_sequencer.md R150). -/
theorem exec_oneEvent {i : Instr} {s t : State} (h : exec i s = .next t) : OneEvent s t := by
  obtain ⟨op, -, hcases⟩ := exec_cases h
  have hop : OneEvent s (op.run s) := by
    simpa [OneEvent, MicroOp.run] using prim_oneEvent op.prim (runStmts op.before s)
  rcases hcases with ⟨-, cs, rfl⟩ | ⟨b, rfl⟩ | rfl
  · simpa [OneEvent] using hop
  · exact hop
  · exact hop

theorem traceBound_append (es : List Event) (e : Event) : traceBound (es ++ [e]) = traceBound es + eventBound e := by
  simp [traceBound]

theorem OneEvent.timeOk {s t : State} (h : OneEvent s t) (hs : s.TimeOk) : t.TimeOk := by
  obtain ⟨e, htrace, htime⟩ := h
  unfold State.TimeOk at hs ⊢
  rw [htrace, traceBound_append, Nat.cast_add]
  linarith

end Sys2Proof.Machine.Proofs
end

section
/-! O56. An engine step keeps the counters and RESULT in range. -/

namespace Sys2Proof.Machine.Proofs
open Sys2Proof.Machine.Laws Sys2Proof.Expected

/-! ### The counter `s.polls` -/

/-- What a wait knows of `s.polls` once the primitive at `u` has been performed, the sample just taken not yet counted
(42_transmit.md R197). -/
def pollsDone (i : Instr) (u : Upc) (polls : Nat) : Prop :=
  match u.block with
  | .main => waits i = true → u.pos + 1 = (commandCode i .main).length → polls = 0
  | .poll _ => polls + 1 ≤ Config.ackPollLimit
  | .acked _ => 1 ≤ polls ∧ polls ≤ Config.ackPollLimit
  | .timeout _ => polls = Config.ackPollLimit
  | .payload _ => u.pos = 47 → polls = 0
  | .close _ => True

theorem pollsDone_after {i : Instr} {u : Upc} {l : Ledger} (h : pollsOk u l.polls.toNat) :
    pollsDone i u (l.after i u).polls.toNat := by
  obtain ⟨b, p⟩ := u
  have hsucc (hlt : l.polls.toNat + 1 ≤ Config.ackPollLimit) : (l.polls + 1#8).toNat = l.polls.toNat + 1 :=
    BitVec.toNat_add_of_lt (Nat.lt_of_le_of_lt hlt (by decide))
  cases b with
  | main => intro hw hp; simp [Ledger.after, hw, hp]
  | poll f =>
    have h' : l.polls.toNat + 2 ≤ Config.ackPollLimit := h
    show (l.polls + 1#8).toNat + 1 ≤ _
    rw [hsucc (by omega)]; omega
  | acked f =>
    have h' : l.polls.toNat + 1 ≤ Config.ackPollLimit := h
    show 1 ≤ (l.polls + 1#8).toNat ∧ (l.polls + 1#8).toNat ≤ _
    rw [hsucc (by omega)]; omega
  | timeout f =>
    by_cases hp : p = 0
    · have h' : l.polls.toNat + 1 = Config.ackPollLimit := by simpa [pollsOk, hp] using h
      simp only [pollsDone, Ledger.after, hp, if_true]
      rw [hsucc (by omega), h']
    · simpa [pollsOk, pollsDone, Ledger.after, hp] using h
  | payload f => intro hp; simp_all [Ledger.after]
  | close f => trivial

theorem pollsOk_advance {i : Instr} {u : Upc} {polls : Nat} (h : pollsDone i u polls)
    (hin : u.pos + 1 < (commandCode i u.block).length) : pollsOk { u with pos := u.pos + 1 } polls := by
  obtain ⟨b, p⟩ := u
  dsimp only at hin
  cases b with
  | main => trivial
  | poll f => exact absurd (pollCode_length i f) (by omega)
  | acked f => exact absurd (ackedCode_length i f) (by omega)
  | timeout f => exact h
  | payload f | close f => simp [pollsOk]

/-- The sample just taken may still be counted (42_transmit.md R200). -/
theorem pollsDone_sample {i : Instr} {u : Upc} {f : Frame} {polls : Nat} (h : pollsDone i u polls)
    (hend : u.pos + 1 = (commandCode i u.block).length) (hw : waits i = true) (hf : SamplesFor u.block f) :
    polls + 1 ≤ Config.ackPollLimit := by
  obtain ⟨b, p⟩ := u
  rcases hf with ⟨rfl, -⟩ | rfl | ⟨⟨g, rfl⟩, -⟩
  · rw [h hw hend]
    decide
  · exact h
  · rcases txnCode_eq i g with ⟨hc, -⟩ | ⟨a, len, rfl⟩
    · simp [hc] at hend
    · cases hend
      rw [h rfl]
      decide

theorem pollsOk_afterSample {f : Frame} {s : State} (h : s.polls.toNat + 1 ≤ Config.ackPollLimit) :
    pollsOk (afterSample f s).upc s.polls.toNat := by
  cases hb : s.sampled with
  | low => rw [afterSample_low hb]; exact h
  | high =>
    rw [afterSample_high hb]
    split
    · assumption
    · show s.polls.toNat + 2 ≤ _
      omega

theorem pollsOk_nextFrame {len : Len} {f : Frame} {s : State}
    (h : 1 ≤ s.polls.toNat ∧ s.polls.toNat ≤ Config.ackPollLimit) :
    pollsOk (nextFrame len f s).upc s.polls.toNat := by
  obtain ⟨b, hg, rfl | rfl⟩ := nextFrame_goto len f s <;> rw [hg] <;> exact fun _ => h

/-! ### The payload index `s.idx` -/

/-- The index is in range before the next primitive of the same block (44_transaction.md R240). -/
theorem idxOk_after {i : Instr} {len : Len} {u : Upc} {l : Ledger} (h : idxOk len.toNat u l.idx.toNat) :
    idxOk len.toNat { u with pos := u.pos + 1 } (l.after i u).idx.toNat := by
  have hsucc (hlt : l.idx.toNat + 1 ≤ len.toNat) : (l.idx + 1#16).toNat = l.idx.toNat + 1 :=
    BitVec.toNat_add_of_lt (Nat.lt_of_le_of_lt hlt len.isLt)
  obtain ⟨b, p⟩ := u
  cases b with
  | main => trivial
  | poll f | acked f => cases f <;> exact h
  | timeout f =>
    have hidx : (l.after i { block := .timeout f, pos := p }).idx = l.idx := by
      simp only [Ledger.after]; split <;> rfl
    rw [hidx]
    cases f <;> exact h
  | payload f =>
    by_cases hp : p = 0
    · subst hp
      cases f with
      | address => exact h
      | payload =>
        have h' : l.idx.toNat + 1 < len.toNat := h
        show (l.idx + 1#16).toNat < len.toNat
        rwa [hsucc h'.le]
    · have hidx : (l.after i { block := .payload f, pos := p }).idx = l.idx := by
        simp only [Ledger.after, hp, if_false]; split <;> rfl
      rw [hidx]
      cases f <;> simpa [idxOk, hp] using h
  | close f =>
    by_cases hp : p = 0
    · subst hp
      cases f with
      | address => exact h.symm
      | payload =>
        have h' : l.idx.toNat + 1 = len.toNat := h
        show (l.idx + 1#16).toNat = len.toNat
        rwa [hsucc h'.le]
    · simpa [idxOk, hp, Ledger.after] using h

theorem idxOk_afterSample {len : Nat} {f : Frame} {s : State} (h : f = .payload → s.idx.toNat < len) :
    idxOk len (afterSample f s).upc s.idx.toNat := by
  obtain ⟨b, hg, hb⟩ := afterSample_goto f s
  rw [hg]
  cases f with
  | address => rcases hb with rfl | rfl | rfl <;> trivial
  | payload => rcases hb with rfl | rfl | rfl <;> exact h rfl

theorem idxOk_nextFrame {len : Len} {f : Frame} {s : State} (h : f = .payload → s.idx.toNat < len.toNat) :
    idxOk len.toNat (nextFrame len f s).upc s.idx.toNat := by
  unfold nextFrame
  split
  · rename_i hlt
    cases f <;> exact hlt
  · rename_i hge
    cases f with
    | address =>
      show len.toNat = 0
      have : ¬ 0 < len.toNat := hge
      omega
    | payload =>
      show s.idx.toNat + 1 = len.toNat
      have : ¬ s.idx.toNat + 1 < len.toNat := hge
      have := h rfl
      omega

/-! ### Both counters, and RESULT, over one engine step -/

/-- The counters of command `i` are in range at position `u` (`State.CountersOk` for the command that runs). -/
def CountersAt (i : Instr) (u : Upc) (s : State) : Prop :=
  pollsOk u s.polls.toNat ∧ ∀ a len, i = .writeTxn a len → idxOk len.toNat u s.idx.toNat

/-- The counters once the primitive at `u` has been performed and before the position has moved. -/
def CountersDone (i : Instr) (u : Upc) (s : State) : Prop :=
  pollsDone i u s.polls.toNat ∧ ∀ a len, i = .writeTxn a len → idxOk len.toNat { u with pos := u.pos + 1 } s.idx.toNat

theorem countersDone_op {i : Instr} {s : State} {op : MicroOp} (hop : (commandCode i s.upc.block)[s.upc.pos]? = some op)
    (h : CountersAt i s.upc s) : CountersDone i s.upc (op.run s) := by
  have hl := ledger_op hop s
  obtain ⟨hpolls, hidx⟩ := h
  constructor
  · rw [show (op.run s).polls = _ from congrArg Ledger.polls hl]
    exact pollsDone_after hpolls
  · intro a len hi
    rw [show (op.run s).idx = _ from congrArg Ledger.idx hl]
    exact idxOk_after (hidx a len hi)

/-- While a payload frame's acknowledgment is awaited or has just come, `s.idx` is the index of that byte. -/
theorem CountersDone.idx_lt {a : Addr7} {len : Len} {u : Upc} {s : State} {f : Frame}
    (h : CountersDone (.writeTxn a len) u s) (hf : SamplesFor u.block f ∨ u.block = .acked f) :
    f = .payload → s.idx.toNat < len.toNat := by
  rintro rfl
  have hidx := h.2 a len rfl
  obtain ⟨b, p⟩ := u
  rcases hf with (⟨-, hf⟩ | rfl | ⟨⟨g, rfl⟩, -⟩) | rfl
  · cases hf
  · exact hidx
  · cases g <;> simpa [idxOk] using hidx
  · exact hidx

theorem CountersAt.of_ledger_eq {i : Instr} {u : Upc} {s t : State} (hl : ledger t = ledger s) (h : CountersAt i u s) :
    CountersAt i u t := by
  unfold CountersAt
  rwa [show t.polls = s.polls from congrArg Ledger.polls hl, show t.idx = s.idx from congrArg Ledger.idx hl]

theorem CountersDone.afterSample {i : Instr} {u : Upc} {s : State} {f : Frame} (h : CountersDone i u s)
    (hend : u.pos + 1 = (commandCode i u.block).length) (hw : waits i = true) (hf : SamplesFor u.block f) :
    CountersAt i (afterSample f s).upc (afterSample f s) := by
  refine .of_ledger_eq (ledger_afterSample f s) ⟨pollsOk_afterSample (pollsDone_sample h.1 hend hw hf), ?_⟩
  rintro a len rfl
  exact idxOk_afterSample (h.idx_lt (.inl hf))

theorem CountersDone.nextFrame {a : Addr7} {len : Len} {u : Upc} {s : State} {f : Frame}
    (h : CountersDone (.writeTxn a len) u s) (hf : u.block = .acked f) :
    CountersAt (.writeTxn a len) (nextFrame len f s).upc (nextFrame len f s) := by
  have hpolls : 1 ≤ s.polls.toNat ∧ s.polls.toNat ≤ Config.ackPollLimit := by simpa [pollsDone, hf] using h.1
  refine .of_ledger_eq (ledger_nextFrame len f s) ⟨pollsOk_nextFrame hpolls, ?_⟩
  rintro a' len' ⟨⟩
  exact idxOk_nextFrame (h.idx_lt (.inr hf))

/-- An engine step after which the command still runs leaves the counters in range. -/
theorem exec_countersAt {i : Instr} {s t : State} (h : exec i s = .next t) (hs : CountersAt i s.upc s)
    (hb : t.busy = true) : CountersAt i t.upc t := by
  obtain ⟨op, hop, ⟨hend, rfl⟩ | ⟨hin, rfl⟩⟩ := exec_next h
  · have hdone := countersDone_op hop hs
    rcases blockEnd_cases hend with ⟨-, cs, hl⟩ | ⟨hw, f, hf, hl⟩ | ⟨a, len, f, rfl, hf, hl⟩ <;> rw [hl] at hb ⊢
    · cases hb
    · exact hdone.afterSample hend hw hf
    · exact hdone.nextFrame hf
  · have hdone := countersDone_op hop hs
    have hu : (advance (op.run s)).upc = { s.upc with pos := s.upc.pos + 1 } := by simp
    rw [hu]
    exact ⟨pollsOk_advance hdone.1 hin, hdone.2⟩

/-! ### RESULT -/

/-- What RESULT's acknowledgment fields say (10_state.md R51, R52). -/
def AckFieldsOk (r : AckResult) (count : Nat) : Prop :=
  match r with
  | .noWait => count = 0
  | .acked => 1 ≤ count ∧ count ≤ Config.ackPollLimit
  | .timeout => count = Config.ackPollLimit

/-- What RESULT's transaction fields say (10_state.md R53, R54). -/
def TxnFieldsOk (size : Nat) (r : TxnStatus) (index : Len) : Prop :=
  match r with
  | .noAckData => index.toNat < size
  | .noTxn | .ok | .noAckAddress => index = 0#16

theorem resultOk_iff (s : State) :
    s.ResultOk ↔ AckFieldsOk s.ackResult s.pollCount.toNat ∧ TxnFieldsOk s.txbufSize s.txnStatus s.txnIndex := Iff.rfl

/-- The report of an acknowledged wait, at the first primitive after it, is in range. -/
theorem resultOk_op {i : Instr} {s : State} {op : MicroOp} (hop : (commandCode i s.upc.block)[s.upc.pos]? = some op)
    (hc : CountersAt i s.upc s) (h : s.ResultOk) : (op.run s).ResultOk := by
  obtain ⟨hack, htxn⟩ := (resultOk_iff s).mp h
  obtain ⟨-, hstatus, hindex, -⟩ := op_keeps hop s
  refine (resultOk_iff _).mpr ⟨?_, by rwa [hstatus, hindex, op_txbufSize]⟩
  rcases op_ack hop s with ⟨hr, hn⟩ | ⟨⟨f, hu⟩, hr, hn⟩ <;> rw [hr, hn]
  · exact hack
  · have hpolls := hc.1
    rcases hu with hu | hu <;> rw [hu] at hpolls <;> exact hpolls rfl

/-- The report with which a command completes is in range: that of a wait's count (42_transmit.md R197), and that of a
transaction's index (44_transaction.md R240). -/
theorem resultOk_commandLast {i : Instr} {u : Upc} {s : State} (hend : u.pos + 1 = (commandCode i u.block).length)
    (hsize : payloadLen i ≤ s.txbufSize) (hc : CountersDone i u s) (h : s.ResultOk) :
    (commandLast i u.block s).ResultOk := by
  rcases blockEnd_cases hend with ⟨hat, -⟩ | ⟨-, f, -, hl⟩ | ⟨-, len, f, -, -, hl⟩
  · obtain ⟨hack, htxn⟩ := (resultOk_iff s).mp h
    cases i with
    | init | start | stop | sendAddr | sendByte | ack | readByte => exact h
    | waitAck => rcases hat with rfl | rfl <;> exact ⟨hc.1, htxn⟩
    | writeTxn a len =>
      obtain ⟨f, rfl | rfl⟩ := hat
      · cases f with
        | address => exact ⟨hc.1, rfl⟩
        | payload => exact ⟨hc.1, Nat.lt_of_lt_of_le (hc.2 a len rfl) hsize⟩
      · exact ⟨hack, rfl⟩
  · obtain ⟨b, hg, -⟩ := afterSample_goto f s
    rw [hl, hg]
    exact h
  · obtain ⟨b, hg, -⟩ := nextFrame_goto len f s
    rw [hl, hg]
    exact h

theorem exec_resultOk {i : Instr} {s t : State} (h : exec i s = .next t) (hsize : payloadLen i ≤ s.txbufSize)
    (hc : CountersAt i s.upc s) (hr : s.ResultOk) : t.ResultOk := by
  obtain ⟨op, hop, ⟨hend, rfl⟩ | ⟨-, rfl⟩⟩ := exec_next h
  · exact resultOk_commandLast hend (by simpa using hsize) (countersDone_op hop hc) (resultOk_op hop hc hr)
  · exact resultOk_op hop hc hr

end Sys2Proof.Machine.Proofs
end

section
/-! O28. What an engine step keeps of the rest of the state, and where it may set INIT_DONE. -/

namespace Sys2Proof.Machine.Proofs
open Sys2Proof.Machine.Laws Sys2Proof.Expected

/-- Settles O28: neither a primitive with its statements, nor a completion, nor a move of the position writes any of
these fields. -/
theorem commandFrame : Obligations.CommandFrame := by
  intro i s t h
  obtain ⟨op, -, ⟨-, cs, rfl⟩ | ⟨b, rfl⟩ | rfl⟩ := exec_cases h
  · simp
  · simp
  · simp

/-- Only the last step of INIT writes INIT_DONE (10_state.md R43). -/
theorem exec_initDone {i : Instr} {s t : State} (h : exec i s = .next t) :
    t.initDone = s.initDone ∨ i = .init ∧ t.busy = false ∧ t.initDone = true := by
  obtain ⟨op, hop, ⟨hend, rfl⟩ | ⟨-, rfl⟩⟩ := exec_next h
  · rw [← (op_keeps hop s).1]
    rcases blockEnd_cases hend with ⟨hat, -⟩ | ⟨-, f, -, hl⟩ | ⟨-, len, f, -, -, hl⟩
    · generalize s.upc = u at hat
      cases i with
      | init => exact .inr ⟨rfl, rfl, rfl⟩
      | start | stop | sendAddr | sendByte | ack | readByte => exact .inl rfl
      | waitAck => rcases hat with rfl | rfl <;> exact .inl rfl
      | writeTxn a len =>
        obtain ⟨f, rfl | rfl⟩ := hat
        · cases f <;> exact .inl rfl
        · exact .inl rfl
    · rw [hl]
      exact .inl (congrArg Ledger.initDone (ledger_afterSample f _))
    · rw [hl]
      exact .inl (congrArg Ledger.initDone (ledger_nextFrame len f _))
  · exact .inl (op_keeps hop s).1

theorem exec_admitted {i : Instr} {s t : State} (h : exec i s = .next t) (ha : Admitted i s) : Admitted i t := by
  obtain ⟨-, -, -, -, -, hsize, -⟩ := commandFrame i s t h
  obtain ⟨hinit, hlen⟩ := ha
  refine ⟨?_, hsize ▸ hlen⟩
  rcases exec_initDone h with hd | ⟨hi, -⟩
  · rwa [hd]
  · exact .inr hi

/-- The decision after a Sample leads to a primitive of the same command. -/
theorem afterSample_atPrimitive {i : Instr} {u : Upc} {f : Frame} (s : State)
    (hend : u.pos + 1 = (commandCode i u.block).length) (hw : waits i = true) (hf : SamplesFor u.block f) :
    atPrimitive i (afterSample f s).upc = true := by
  obtain ⟨b, hg, hb⟩ := afterSample_goto f s
  rw [hg]
  cases i with
  | init | start | stop | sendAddr | sendByte | ack | readByte => cases hw
  | writeTxn a len => rcases hb with rfl | rfl | rfl <;> rfl
  | waitAck =>
    have hfa : f = .address := by
      obtain ⟨b', p⟩ := u
      rcases hf with ⟨-, hfa⟩ | rfl | ⟨⟨g, rfl⟩, -⟩
      · exact hfa
      · cases f with
        | address => rfl
        | payload => cases hend
      · cases hend
    subst hfa
    rcases hb with rfl | rfl | rfl <;> rfl

/-- An engine step after which the command still runs leaves the position at one of its primitives (10_state.md R60). -/
theorem exec_atPrimitive {i : Instr} {s t : State} (h : exec i s = .next t) (hb : t.busy = true) :
    atPrimitive i t.upc = true := by
  obtain ⟨op, hop, ⟨hend, rfl⟩ | ⟨hin, rfl⟩⟩ := exec_next h
  · rcases blockEnd_cases hend with ⟨-, cs, hl⟩ | ⟨hw, f, hf, hl⟩ | ⟨a, len, f, rfl, -, hl⟩ <;> rw [hl] at hb ⊢
    · cases hb
    · exact afterSample_atPrimitive _ hend hw hf
    · obtain ⟨b, hg, rfl | rfl⟩ := nextFrame_goto len f (op.run s) <;> rw [hg] <;> rfl
  · simpa [atPrimitive] using hin

end Sys2Proof.Machine.Proofs
end

section
/-! What a host step changes, and whose step a step of the machine is. -/

namespace Sys2Proof.Machine.Proofs
open Sys2Proof.Machine.Laws Sys2Proof.Expected

/-- `t` differs from `s` at most in the error bits, the host's own records and the count of draws. -/
def HostRecordsOnly (s t : State) : Prop :=
  t = { s with
    errIllegal := t.errIllegal, errOverrun := t.errOverrun, errNoinit := t.errNoinit, errLen := t.errLen
    busErrors := t.busErrors, hostReads := t.hostReads, hostProg := t.hostProg, draws := t.draws }

/-- All a host step can do to the block: its error bits; or, while no command runs, a command accepted or TXBUF bytes
stored (40_bit_sequencer.md R151, R153, R156). -/
theorem hostStep_cases (s : State) :
    HostRecordsOnly s (hostStep s) ∨
    (∃ w i, s.busy = false ∧ decode w = .ok i ∧ refusalOf i s = none ∧ HostRecordsOnly (accept w s) (hostStep s)) ∨
    (∃ i bs, s.busy = false ∧ i + bs.length ≤ s.txbufSize ∧
      HostRecordsOnly { s with txbuf := Memory.writeBytes s.txbuf i bs } (hostStep s)) := by
  unfold hostStep
  split
  · exact .inl rfl
  · rename_i op _ _
    rcases hostOp_cases op s with ⟨off, size, w, h⟩ | ⟨d, errs, reads, prog, h⟩
    · rw [h]
      rcases hostWrite_cases off size w s with ⟨e, hw⟩ | hw | ⟨i, hb, hd, hr, hw⟩ | ⟨i, hb, hi, hw⟩ | hw | hw <;>
        rw [hw]
      · exact .inl rfl
      · exact .inl rfl
      · exact .inr (.inl ⟨w, i, hb, hd, hr, rfl⟩)
      · exact .inr (.inr ⟨i, _, hb, by simpa using hi, rfl⟩)
      · exact .inl rfl
      · exact .inl rfl
    · rw [h]
      exact .inl rfl

/-- `s` with the inputs that say whose step comes next as they stand when that step runs. -/
def scheduled (turns : List Turn) (draws : Nat) (lead : Option Nat) (s : State) : State :=
  { s with turns := turns, draws := draws, lead := lead }

/-- A step is an engine step, a host step, or the reset input where its turn has come (40_bit_sequencer.md R140). -/
theorem step_origin (s : State) :
    ∃ turns draws lead,
      step s = engineStep (scheduled turns draws lead s) ∨
      step s = .next (hostStep (scheduled turns draws lead s)) ∨
      s.turns.head? = some .reset ∧ step s = .next (resetStep (scheduled turns draws lead s)) := by
  cases hturns : s.turns with
  | cons turn rest =>
    refine ⟨rest, s.draws, s.lead, ?_⟩
    unfold step
    rw [hturns]
    cases turn with
    | engine => exact .inl rfl
    | host => exact .inr (.inl rfl)
    | reset => exact .inr (.inr ⟨rfl, rfl⟩)
  | nil =>
    have hstep : step s = freeStep s := by unfold step; rw [hturns]
    rw [hstep]
    unfold freeStep
    split
    · exact ⟨s.turns, s.draws, s.lead, .inr (.inl rfl)⟩
    · split
      · exact ⟨s.turns, s.draws, s.lead, .inl rfl⟩
      · obtain ⟨d, k, -, ⟨m, -, h⟩ | ⟨-, h⟩⟩ := contend_drawLead s
        · exact ⟨s.turns, d, some m, .inr (.inl h)⟩
        · exact ⟨s.turns, d, none, .inl h⟩

/-- All a step from `s` to `t` can be: nothing or an engine step of the latched command, a host step, or the reset
input, each from `s` with other inputs only. -/
theorem step_next {s t : State} (h : step s = .next t) :
    ∃ turns draws lead,
      (t = scheduled turns draws lead s ∧ s.busy = false) ∨
      (∃ i, s.busy = true ∧ decode s.cmd = .ok i ∧ exec i (scheduled turns draws lead s) = .next t) ∨
      t = hostStep (scheduled turns draws lead s) ∨
      s.turns.head? = some .reset ∧ t = resetStep (scheduled turns draws lead s) := by
  obtain ⟨turns, draws, lead, hs | hs | ⟨hhead, hs⟩⟩ := step_origin s <;>
    refine ⟨turns, draws, lead, ?_⟩ <;> rw [hs] at h
  · rcases engineStep_next h with ⟨hb, ht⟩ | hi
    · exact .inl ⟨ht, hb⟩
    · exact .inr (.inl hi)
  · cases h; exact .inr (.inr (.inl rfl))
  · cases h; exact .inr (.inr (.inr ⟨hhead, rfl⟩))

end Sys2Proof.Machine.Proofs
end

section
/-! O56. Every kind of step keeps the invariant. -/

namespace Sys2Proof.Machine.Proofs
open Sys2Proof.Machine.Laws Sys2Proof.Expected

/-- The invariant does not look at the inputs that say whose step comes next. -/
theorem inv_scheduled {turns : List Turn} {draws : Nat} {lead : Option Nat} {s : State} (h : s.Inv) :
    (scheduled turns draws lead s).Inv := h

/-- The invariant does not look at the error bits, the host's records or the count of draws. -/
theorem HostRecordsOnly.inv {s t : State} (h : HostRecordsOnly s t) (hs : s.Inv) : t.Inv := by
  rw [h]
  exact hs

theorem inv_resetStep {s : State} (h : s.Inv) : (resetStep s).Inv := by
  obtain ⟨hsize, -⟩ := h
  exact ⟨hsize, rfl, fun hb => absurd hb reset_not_busy, fun hb => absurd hb reset_not_busy, reset_resultOk,
    reset_timeOk⟩

theorem admitted_of_not_refused {i : Instr} {s : State} (h : refusalOf i s = none) : Admitted i s := by
  unfold refusalOf at h
  split at h
  · cases h
  · rename_i hinit
    split at h
    · cases h
    · rename_i hlen
      constructor
      · by_cases hi : i = .init
        · exact .inr hi
        · exact .inl (by simpa [hi] using hinit)
      · exact Nat.not_lt.mp hlen

/-- An accepted command is admitted and starts at a primitive, where nothing is yet known of its counters
(40_bit_sequencer.md R153). -/
theorem inv_accept {w : Word} {i : Instr} {s : State} (hd : decode w = .ok i) (hr : refusalOf i s = none) (h : s.Inv) :
    (accept w s).Inv := by
  obtain ⟨hsize, hmem, -, -, hresult, htime⟩ := h
  have hfirst : atPrimitive i Upc.first = true := by cases i <;> rfl
  exact ⟨hsize, hmem, fun _ => ⟨i, hd, admitted_of_not_refused hr, hfirst⟩, fun _ => ⟨trivial, fun _ _ _ => trivial⟩,
    hresult, htime⟩

theorem inv_storeTxbuf {i : Nat} {bs : List Byte} {s : State} (hi : i + bs.length ≤ s.txbufSize) (h : s.Inv) :
    State.Inv { s with txbuf := Memory.writeBytes s.txbuf i bs } := by
  obtain ⟨hsize, hmem, hseq, hcount, hresult, htime⟩ := h
  exact ⟨hsize, wf_writeBytes hmem bs hi, hseq, hcount, hresult, htime⟩

theorem inv_hostStep {s : State} (h : s.Inv) : (hostStep s).Inv := by
  rcases hostStep_cases s with hk | ⟨w, i, -, hd, hr, hk⟩ | ⟨i, bs, -, hi, hk⟩
  · exact hk.inv h
  · exact hk.inv (inv_accept hd hr h)
  · exact hk.inv (inv_storeTxbuf hi h)

theorem inv_exec {i : Instr} {s t : State} (hb : s.busy = true) (hd : decode s.cmd = .ok i) (he : exec i s = .next t)
    (h : s.Inv) : t.Inv := by
  obtain ⟨hsize, hmem, hseq, hcount, hresult, htime⟩ := h
  obtain ⟨-, -, -, -, hcmd, hsz, hbuf, -⟩ := commandFrame i s t he
  have hdt : decode t.cmd = .ok i := hcmd ▸ hd
  have hadm : Admitted i s := by
    obtain ⟨j, hj, ha, -⟩ := hseq hb
    cases hd.symm.trans hj
    exact ha
  have hat : CountersAt i s.upc s := by
    obtain ⟨hpolls, hidx⟩ := hcount hb
    exact ⟨hpolls, fun a len hi => hidx a len (hi ▸ hd)⟩
  have hcountT : t.CountersOk := by
    intro hbt
    obtain ⟨hpolls, hidx⟩ := exec_countersAt he hat hbt
    exact ⟨hpolls, fun a len hi => hidx a len (by cases hdt.symm.trans hi; rfl)⟩
  refine ⟨?_, ?_, ?_, hcountT, exec_resultOk he hadm.2 hat hresult, (exec_oneEvent he).timeOk htime⟩
  · unfold State.SizeOk
    rwa [hsz]
  · unfold State.MemoryOk
    rwa [hsz, hbuf]
  · exact fun hbt => ⟨i, hdt, exec_admitted he hadm, exec_atPrimitive he hbt⟩

/-- Settles O56: whichever step it is, each part of the invariant is kept. -/
theorem stepKeepsSoundness : Obligations.StepKeepsSoundness := by
  intro s t hs h
  obtain ⟨turns, draws, lead, ⟨rfl, -⟩ | ⟨i, hb, hd, he⟩ | rfl | ⟨-, rfl⟩⟩ := step_next h
  · exact inv_scheduled hs
  · exact inv_exec (s := scheduled turns draws lead s) hb hd he (inv_scheduled hs)
  · exact inv_hostStep (inv_scheduled hs)
  · exact inv_resetStep (inv_scheduled hs)

end Sys2Proof.Machine.Proofs
end

section
/-! O31, O52. Where RXDATA and RESULT change. -/

namespace Sys2Proof.Machine.Proofs
open Sys2Proof.Machine.Laws Sys2Proof.Expected

/-- The fields of RESULT and RXDATA in which `t` differs from `s` are those with which command `i` completes at
position `u` (42_transmit.md R197, 43_receive.md R224, 44_transaction.md R240). -/
def ReportsAtEnd (i : Instr) (u : Upc) (s t : State) : Prop :=
  (t.rxdata ≠ s.rxdata → i = .readByte ∧ t.busy = false ∧ atEnd i u) ∧
  ((t.ackResult ≠ s.ackResult ∨ t.pollCount ≠ s.pollCount) → t.busy = false ∧
    (i = .waitAck ∧ atEnd i u ∨ ∃ a len f, i = .writeTxn a len ∧ u = { block := .timeout f, pos := 7 })) ∧
  ((t.txnStatus ≠ s.txnStatus ∨ t.txnIndex ≠ s.txnIndex) → (∃ a len, i = .writeTxn a len) ∧ t.busy = false ∧ atEnd i u)

theorem reportsAtEnd_of_ledger_eq (i : Instr) (u : Upc) {s t : State} (h : ledger t = ledger s) :
    ReportsAtEnd i u s t := by
  have hrx : t.rxdata = s.rxdata := congrArg Ledger.rxdata h
  have hack : t.ackResult = s.ackResult := congrArg Ledger.ackResult h
  have hcount : t.pollCount = s.pollCount := congrArg Ledger.pollCount h
  have hstatus : t.txnStatus = s.txnStatus := congrArg Ledger.txnStatus h
  have hindex : t.txnIndex = s.txnIndex := congrArg Ledger.txnIndex h
  simp [ReportsAtEnd, hrx, hack, hcount, hstatus, hindex]

theorem not_ne_or_ne_self {α β : Type} {a : α} {b : β} : ¬ (a ≠ a ∨ b ≠ b) := by simp

theorem commandLast_reportsAtEnd {i : Instr} {u : Upc} (hat : atEnd i u) (s : State) :
    ReportsAtEnd i u s (commandLast i u.block s) := by
  have hend := hat
  cases i with
  | init => exact ⟨absurd rfl, fun h => absurd h not_ne_or_ne_self, fun h => absurd h not_ne_or_ne_self⟩
  | start | stop | sendAddr | sendByte | ack => exact reportsAtEnd_of_ledger_eq _ _ rfl
  | readByte =>
    exact ⟨fun _ => ⟨rfl, rfl, hat⟩, fun h => absurd h not_ne_or_ne_self, fun h => absurd h not_ne_or_ne_self⟩
  | waitAck =>
    rcases hat with rfl | rfl <;>
      exact ⟨absurd rfl, fun _ => ⟨rfl, .inl ⟨rfl, hend⟩⟩, fun h => absurd h not_ne_or_ne_self⟩
  | writeTxn a len =>
    obtain ⟨f, rfl | rfl⟩ := hat
    · refine ⟨?_, fun _ => ⟨rfl, .inr ⟨a, len, f, rfl, rfl⟩⟩, fun _ => ⟨⟨a, len, rfl⟩, rfl, hend⟩⟩
      cases f <;> exact absurd rfl
    · exact ⟨absurd rfl, fun h => absurd h not_ne_or_ne_self, fun _ => ⟨⟨a, len, rfl⟩, rfl, hend⟩⟩

/-- After its primitive a step changes RXDATA and RESULT only as the completion it may be. -/
theorem exec_reportsAtEnd {i : Instr} {s t : State} (h : exec i s = .next t) :
    ∃ op, (commandCode i s.upc.block)[s.upc.pos]? = some op ∧ ReportsAtEnd i s.upc (op.run s) t := by
  obtain ⟨op, hop, ⟨hend, rfl⟩ | ⟨-, rfl⟩⟩ := exec_next h
  · refine ⟨op, hop, ?_⟩
    rcases blockEnd_cases hend with ⟨hat, -⟩ | ⟨-, f, -, hl⟩ | ⟨-, len, f, -, -, hl⟩
    · exact commandLast_reportsAtEnd hat _
    · rw [hl]
      exact reportsAtEnd_of_ledger_eq _ _ (ledger_afterSample f _)
    · rw [hl]
      exact reportsAtEnd_of_ledger_eq _ _ (ledger_nextFrame len f _)
  · exact ⟨op, hop, reportsAtEnd_of_ledger_eq _ _ rfl⟩

theorem writeTxn_of_afterAcked {i : Instr} {u : Upc} {op : MicroOp} (hop : (commandCode i u.block)[u.pos]? = some op)
    (hu : AfterAcked u) : ∃ a len, i = .writeTxn a len := by
  obtain ⟨f, hu⟩ := hu
  rcases txnCode_eq i f with ⟨hpayload, hclose⟩ | hi
  · rcases hu with rfl | rfl
    · simp [hpayload] at hop
    · simp [hclose] at hop
  · exact hi

/-- Settles O31: before a primitive only WRITE_TXN's report of an acknowledged wait is made, every other report is part
of a completion. -/
theorem resultsChangeOnlyWhereNamed : Obligations.ResultsChangeOnlyWhereNamed := by
  intro i s t h
  obtain ⟨op, hop, hrx, hack, htxn⟩ := exec_reportsAtEnd h
  obtain ⟨-, hstatus, hindex, hrxdata⟩ := op_keeps hop s
  refine ⟨by rwa [hrxdata] at hrx, ?_, by rwa [hstatus, hindex] at htxn⟩
  rcases op_ack hop s with ⟨hr, hn⟩ | ⟨hafter, -⟩
  · rw [hr, hn] at hack
    intro hchange
    obtain ⟨hb, ⟨hi, hat⟩ | ⟨a, len, f, hi, hu⟩⟩ := hack hchange
    · exact .inl ⟨hi, hb, hat⟩
    · exact .inr ⟨a, len, f, hi, .inr (.inr ⟨hu, hb⟩)⟩
  · intro _
    obtain ⟨a, len, hi⟩ := writeTxn_of_afterAcked hop hafter
    obtain ⟨f, hu | hu⟩ := hafter
    · exact .inr ⟨a, len, f, hi, .inl hu⟩
    · exact .inr ⟨a, len, f, hi, .inr (.inl hu)⟩

/-- Any stretch of pseudocode that neither counts nor reports keeps the counters and reports. -/
theorem ledger_runOps {ops : List MicroOp} (h : silentCode ops = true) (s : State) :
    ledger (runOps ops s) = ledger s := by
  induction ops generalizing s with
  | nil => rfl
  | cons op ops ih =>
    obtain ⟨hop, hops⟩ : op.before.all silentStmt = true ∧ silentCode ops = true := by
      simpa [silentCode] using h
    rw [runOps_cons, ih hops, ledger_run, ledger_silentStmts hop]

theorem runOps_busy (ops : List MicroOp) (s : State) : (runOps ops s).busy = s.busy := by
  induction ops generalizing s with
  | nil => rfl
  | cons op ops ih => rw [runOps_cons, ih, op_busy]

theorem silentCode_take {ops : List MicroOp} (h : silentCode ops = true) (n : Nat) :
    silentCode (ops.take n) = true := by
  unfold silentCode at h ⊢
  exact List.all_eq_true.mpr fun op hop => List.all_eq_true.mp h op (List.mem_of_mem_take hop)

/-- Settles O52: fewer than READ_BYTE's 48 primitives lie inside its block, none of which reports or completes. -/
theorem rxdataKeptUntilTheEnd : Obligations.RxdataKeptUntilTheEnd := by
  intro n s u hu hn h
  have hlength : (commandCode .readByte .main).length = 48 := rfl
  rw [execN_inside .readByte .main n 0 s hu (by omega)] at h
  cases h
  have hsilent : silentCode ((commandCode .readByte .main).take n) = true := silentCode_take rfl n
  exact ⟨congrArg Ledger.rxdata (ledger_runOps hsilent s), runOps_busy _ s⟩

end Sys2Proof.Machine.Proofs
end

section
/-! O59, O60. INIT_DONE and the running command over every kind of step. -/

namespace Sys2Proof.Machine.Proofs
open Sys2Proof.Machine.Laws Sys2Proof.Expected

theorem hostStep_initDone (s : State) : (hostStep s).initDone = s.initDone := by
  rcases hostStep_cases s with hk | ⟨w, i, -, -, -, hk⟩ | ⟨i, bs, -, -, hk⟩ <;> rw [hk]
  rfl

/-- Settles O59: no host step touches INIT_DONE, and an engine step only where it completes INIT. -/
theorem initDoneChanges : Obligations.InitDoneChanges := by
  intro s t h hchange
  obtain ⟨turns, draws, lead, ⟨rfl, -⟩ | ⟨i, hb, hd, he⟩ | rfl | ⟨hhead, rfl⟩⟩ := step_next h
  · exact absurd rfl hchange
  · rcases exec_initDone he with hsame | ⟨rfl, hbt, hdone⟩
    · exact absurd hsame hchange
    · exact .inr ⟨hb, hd, hbt, hdone⟩
  · exact absurd (hostStep_initDone _) hchange
  · exact .inl ⟨hhead, rfl⟩

/-- While a command runs a host step neither replaces it nor ends it (40_bit_sequencer.md R156). -/
theorem hostStep_keepsCommand {s : State} (hb : s.busy = true) :
    (hostStep s).cmd = s.cmd ∧ (hostStep s).busy = true := by
  rcases hostStep_cases s with hk | ⟨w, i, hnb, -⟩ | ⟨i, bs, hnb, -⟩
  · rw [hk]
    exact ⟨rfl, hb⟩
  · simp [hb] at hnb
  · simp [hb] at hnb

/-- BUSY falls in an engine step only at an end position of the command (40_bit_sequencer.md R154). -/
theorem exec_completes_atEnd {i : Instr} {s t : State} (h : exec i s = .next t) (hb : s.busy = true)
    (hbt : t.busy = false) : atEnd i s.upc := by
  obtain ⟨op, -, ⟨hat, -⟩ | ⟨b, rfl⟩ | rfl⟩ := exec_cases h
  · exact hat
  · simp [hb] at hbt
  · simp [hb] at hbt

/-- Settles O60: a host step leaves the command alone, and an engine step keeps its word and ends it at its end only. -/
theorem runningCommandIsKept : Obligations.RunningCommandIsKept := by
  intro s t hb hturn h
  obtain ⟨turns, draws, lead, ⟨-, hnb⟩ | ⟨i, -, hd, he⟩ | rfl | ⟨hhead, -⟩⟩ := step_next h
  · simp [hb] at hnb
  · obtain ⟨-, -, -, -, hcmd, -⟩ := commandFrame _ _ _ he
    obtain ⟨e, htrace, -⟩ := exec_oneEvent he
    exact ⟨hcmd, fun hbt => ⟨i, e, hd, exec_completes_atEnd (s := scheduled turns draws lead s) he hb hbt, htrace⟩⟩
  · obtain ⟨hcmd, hbt⟩ := hostStep_keepsCommand (s := scheduled turns draws lead s) hb
    exact ⟨hcmd, fun hnb => by simp [hbt] at hnb⟩
  · exact absurd hhead hturn

end Sys2Proof.Machine.Proofs
end

section
/-! O27. The phase is carried along by every operation and looked at by none. -/

namespace Sys2Proof.Machine.Proofs
open Sys2Proof.Machine.Laws Sys2Proof.Expected

/-- `t` is `s` with another phase. -/
def PhaseOnly (s t : State) : Prop := ∃ p, t = { s with phase := p }

theorem stmt_phaseOnly (c : Stmt) {s t : State} (h : PhaseOnly s t) : PhaseOnly (c.run s) (c.run t) := by
  obtain ⟨p, rfl⟩ := h
  cases c with
  | phase q => exact ⟨q, rfl⟩
  | _ => exact ⟨p, rfl⟩

theorem runStmts_phaseOnly (cs : List Stmt) {s t : State} (h : PhaseOnly s t) :
    PhaseOnly (runStmts cs s) (runStmts cs t) := by
  induction cs generalizing s t with
  | nil => exact h
  | cons c cs ih => exact ih (stmt_phaseOnly c h)

theorem setSda_phaseOnly (v : Level) {s t : State} (h : PhaseOnly s t) : PhaseOnly (setSda v s) (setSda v t) := by
  obtain ⟨p, rfl⟩ := h
  simp only [setSda]
  split <;> exact ⟨p, rfl⟩

theorem sampleSda_phaseOnly {s t : State} (h : PhaseOnly s t) : PhaseOnly (sampleSda s) (sampleSda t) := by
  obtain ⟨p, rfl⟩ := h
  simp only [sampleSda]
  split <;> exact ⟨p, rfl⟩

theorem prim_phaseOnly (q : Prim) {s t : State} (h : PhaseOnly s t) : PhaseOnly (q.perform s) (q.perform t) := by
  cases q with
  | driveSda v => exact setSda_phaseOnly v h
  | driveSdaBit i =>
    obtain ⟨p, rfl⟩ := h
    exact setSda_phaseOnly (busBit s.shift i) ⟨p, rfl⟩
  | sample => exact sampleSda_phaseOnly h
  | setDir | driveScl | delay => obtain ⟨p, rfl⟩ := h; exact ⟨p, rfl⟩

theorem op_phaseOnly (op : MicroOp) {s t : State} (h : PhaseOnly s t) : PhaseOnly (op.run s) (op.run t) :=
  prim_phaseOnly op.prim (runStmts_phaseOnly op.before h)

theorem complete_phaseOnly (cs : List Stmt) {s t : State} (h : PhaseOnly s t) :
    PhaseOnly (complete cs s) (complete cs t) := by
  obtain ⟨p, hp⟩ := runStmts_phaseOnly cs h
  exact ⟨p, by unfold complete; rw [hp]⟩

theorem afterSample_phaseOnly (f : Frame) {s t : State} (h : PhaseOnly s t) :
    PhaseOnly (afterSample f s) (afterSample f t) := by
  obtain ⟨p, rfl⟩ := h
  simp only [afterSample]
  split
  · exact ⟨p, rfl⟩
  · split <;> exact ⟨p, rfl⟩

theorem nextFrame_phaseOnly (len : Len) (f : Frame) {s t : State} (h : PhaseOnly s t) :
    PhaseOnly (nextFrame len f s) (nextFrame len f t) := by
  obtain ⟨p, rfl⟩ := h
  have hidx : nextIdx { s with phase := p } f = nextIdx s f := by cases f <;> rfl
  unfold nextFrame
  rw [hidx]
  split <;> exact ⟨p, rfl⟩

theorem commandLast_phaseOnly {i : Instr} {u : Upc} (hend : u.pos + 1 = (commandCode i u.block).length) {s t : State}
    (h : PhaseOnly s t) : PhaseOnly (commandLast i u.block s) (commandLast i u.block t) := by
  rcases blockEnd_cases hend with ⟨-, cs, hl⟩ | ⟨-, f, -, hl⟩ | ⟨-, len, f, -, -, hl⟩ <;> rw [hl]
  · exact complete_phaseOnly cs h
  · exact afterSample_phaseOnly f h
  · exact nextFrame_phaseOnly len f h

/-- An engine step from a state with another phase. -/
theorem exec_phaseOnly {i : Instr} {s s' t : State} (h : exec i s = .next t) (hs : PhaseOnly s s') :
    ∃ t', exec i s' = .next t' ∧ PhaseOnly t t' := by
  have hupc : s'.upc = s.upc := by obtain ⟨p, rfl⟩ := hs; rfl
  obtain ⟨op, hop, ⟨hend, rfl⟩ | ⟨hin, rfl⟩⟩ := exec_next h
  · refine ⟨_, (exec_eq_runCode i s').trans (runCode_last (by rw [hupc]; exact hop) (by rw [hupc]; exact hend)), ?_⟩
    rw [hupc]
    exact commandLast_phaseOnly hend (op_phaseOnly op hs)
  · refine ⟨_, (exec_eq_runCode i s').trans (runCode_inside (by rw [hupc]; exact hop) (by rw [hupc]; exact hin.ne)), ?_⟩
    obtain ⟨p, hp⟩ := op_phaseOnly op hs
    exact ⟨p, by rw [hp]; rfl⟩

/-- An engine step stops exactly where the position names no primitive of the command. -/
theorem exec_fault_iff (i : Instr) (s : State) :
    (∃ f, exec i s = .fault f) ↔ (commandCode i s.upc.block)[s.upc.pos]? = none := by
  rw [exec_eq_runCode]
  unfold runCode
  split
  · rename_i hnone
    exact ⟨fun _ => hnone, fun _ => ⟨_, rfl⟩⟩
  · rename_i op hop
    split <;> simp [hop]

theorem offer_phase (w : Word) (s : State) (p : Phase) :
    offer w { s with phase := p } = { offer w s with phase := p } := by
  unfold offer
  split
  · rfl
  · cases decode w with
    | error e => rfl
    | ok i =>
      have hr : refusalOf i { s with phase := p } = refusalOf i s := rfl
      dsimp only
      rw [hr]
      cases refusalOf i s <;> rfl

/-- Settles O27: neither the statements, the primitives and the decisions of a command nor acceptance read the phase. -/
theorem phaseIsInformational : Obligations.PhaseIsInformational := by
  refine ⟨fun i s t p h => ?_, fun i s p h => ?_, offer_phase⟩
  · obtain ⟨t', ht', q, rfl⟩ := exec_phaseOnly h ⟨p, rfl⟩
    exact ⟨q, ht'⟩
  · exact (exec_fault_iff i { s with phase := p }).mpr ((exec_fault_iff i s).mp h)

end Sys2Proof.Machine.Proofs
end

section
/-! O24. The first engine step of each command. -/

namespace Sys2Proof.Machine.Proofs
open Sys2Proof.Machine.Laws Sys2Proof.Expected

/-- An engine step at a command's first position, where its main block has more than one primitive. -/
theorem exec_first {i : Instr} {s t : State} {op op' : MicroOp} {ops : List MicroOp}
    (hu : s.upc = { block := .main, pos := 0 }) (hcode : commandCode i .main = op :: op' :: ops)
    (ht : setUpc { block := .main, pos := 1 } (op.run s) = t) : exec i s = .next t := by
  rw [exec_eq_runCode, runCode_inside (op := op) (by simp [hu, hcode]) (by simp [hu, hcode]), ← ht]
  simp [advance, setUpc, hu]

/-- The address frame is `{ADDR7, RW}` (30_encoding.md R113). -/
theorem addressFrame_eq_append (a : Addr7) (rw : Rw) : addressFrame a rw = a ++ rw.toBit := by
  rw [addressFrame, BitVec.append_def, BitVec.shiftLeftZeroExtend_eq, BitVec.setWidth'_eq]

/-- Settles O24: the entry phase, the load of a send's byte and the first primitive stand at the head of each command's
pseudocode. -/
theorem everyCommandBegins : Obligations.EveryCommandBegins := by
  intro s hu
  have hsendAddr (a : Addr7) (rw : Rw) : exec (.sendAddr a rw) s = .next { s with
      phase := .address, shift := a ++ rw.toBit, sdaDir := .output, trace := s.trace ++ [.dir .output]
      upc := { block := .main, pos := 1 } } := by
    rw [← addressFrame_eq_append]
    exact exec_first hu rfl rfl
  exact ⟨exec_first hu rfl rfl, exec_first hu rfl rfl, exec_first hu rfl rfl, hsendAddr,
    fun d => exec_first hu rfl rfl, exec_first hu rfl rfl, exec_first hu rfl rfl, exec_first hu rfl rfl,
    fun a len => exec_first hu rfl rfl⟩

end Sys2Proof.Machine.Proofs
end

section
/-! O9 to O12, O21. The registers as the host reads and writes them. -/

namespace Sys2Proof.Machine.Proofs
open Sys2Proof.Machine.Laws Sys2Proof.Expected

/-! ### Accesses of registers -/

/-- A 32-bit access of a register's offset reaches that register (20_memory.md R81). -/
theorem target_reg {n : Nat} {off : Offset} {r : Reg} (hr : regAt off.toNat = some r) (ho : off.toNat < txbufBase) :
    target n off .word = .reg r := by
  simp [target, hr, Nat.not_le.mpr ho]

theorem readData_reg {off : Offset} {r : Reg} (s : State) (hr : regAt off.toNat = some r) (ho : off.toNat < txbufBase) :
    readData off .word s = (readReg s r, s) := by
  simp [readData, target_reg hr ho]

theorem hostWrite_reg {off : Offset} {r : Reg} (w : Word) (s : State) (hr : regAt off.toNat = some r)
    (ho : off.toNat < txbufBase) : hostWrite off .word w s = writeReg r w s := by
  simp [hostWrite, target_reg hr ho]

/-! ### Bits of the register words -/

theorem getLsbD_bitAt {n k : Nat} (hk : k < 32) (b : Bool) : (bitAt n b).getLsbD k = (decide (k = n) && b) := by
  cases b with
  | false => simp [bitAt]
  | true => simp [bitAt, ← BitVec.twoPow_eq, eq_comm, hk]

/-- A field of `w` bits is known by its bits. -/
theorem extractLsb'_eq_of_bits {w i : Nat} {x : Word} {y : BitVec w} (h : ∀ k < w, x.getLsbD (i + k) = y.getLsbD k) :
    x.extractLsb' i w = y := by
  ext k hk
  rw [BitVec.getElem_extractLsb', h k hk, BitVec.getLsbD_eq_getElem hk]

/-- A field shifted to bit `n` of a register word. -/
theorem getLsbD_field {w n k : Nat} (hk : k < 32) (x : BitVec w) :
    (x.setWidth 32 <<< n).getLsbD k = (decide (n ≤ k) && x.getLsbD (k - n)) := by
  have hlt : k - n < 32 := Nat.lt_of_le_of_lt (Nat.sub_le k n) hk
  rw [BitVec.getLsbD_shiftLeft, BitVec.getLsbD_setWidth, decide_eq_true hk, decide_eq_true hlt]
  by_cases hn : n ≤ k
  · simp [hn, Nat.not_lt.mpr hn]
  · simp [hn, Nat.lt_of_not_le hn]

/-- Bit `k` of STATUS: one of the flags, a bit of the phase, or 0 (10_state.md R46). -/
theorem getLsbD_statusWord (s : State) {k : Nat} (hk : k < 32) :
    (statusWord s).getLsbD k =
      (decide (k = 0) && s.busy || decide (k = 1) && s.initDone || decide (k = 2) && s.errIllegal ||
        decide (k = 3) && s.errOverrun || decide (k = 4) && s.errNoinit || decide (k = 5) && s.errLen ||
        decide (8 ≤ k) && (phaseCode s.phase).getLsbD (k - 8)) := by
  simp only [statusWord, BitVec.getLsbD_or, getLsbD_bitAt hk, getLsbD_field hk]

/-- Bit `k` of RESULT: a bit of one of its four fields, or 0 (10_state.md R51 to R54). -/
theorem getLsbD_resultWord (s : State) {k : Nat} (hk : k < 32) :
    (resultWord s).getLsbD k =
      ((ackResultCode s.ackResult).getLsbD k || decide (4 ≤ k) && (txnStatusCode s.txnStatus).getLsbD (k - 4) ||
        decide (8 ≤ k) && s.pollCount.getLsbD (k - 8) || decide (16 ≤ k) && s.txnIndex.getLsbD (k - 16)) := by
  simp only [resultWord, BitVec.getLsbD_or, getLsbD_field hk, BitVec.getLsbD_setWidth, decide_eq_true hk, Bool.true_and]

/-- Bit `k` of LINES: one of the three pin bits, or 0 (10_state.md R56). -/
theorem getLsbD_linesWord (s : State) {k : Nat} (hk : k < 32) :
    (linesWord s).getLsbD k =
      (decide (k = 0) && bitOfLevel s.scl || decide (k = 1) && bitOfLevel s.sdaOut ||
        decide (k = 2) && (s.sdaDir == .output)) := by
  simp only [linesWord, BitVec.getLsbD_or, getLsbD_bitAt hk]

/-! ### The statements -/

/-- Settles O9: each flag and the phase stand in bits of their own, and no other bit is set. -/
theorem statusRead : Obligations.StatusRead := by
  intro s
  rw [readData_reg s (r := .status) rfl (by decide)]
  have hbit {k : Nat} {b : Bool} (hk : k < 32) (h : _ = b) : (statusWord s).getLsbD k = b :=
    (getLsbD_statusWord s hk).trans h
  refine ⟨rfl, hbit (by decide) (by simp), hbit (by decide) (by simp), hbit (by decide) (by simp),
    hbit (by decide) (by simp), hbit (by decide) (by simp), hbit (by decide) (by simp),
    extractLsb'_eq_of_bits fun k hk => hbit (by omega) ?_, extractLsb'_eq_of_bits fun k hk => hbit (by omega) ?_,
    extractLsb'_eq_of_bits fun k hk => hbit (by omega) ?_⟩
  all_goals grind

/-- Settles O10: the four fields do not overlap, and no bit is set between them. -/
theorem resultRead : Obligations.ResultRead := by
  intro s
  rw [readData_reg s (r := .result) rfl (by decide)]
  have hfield {w i : Nat} {y : BitVec w} (hw : i + w ≤ 32) (h : ∀ k < w, _ = y.getLsbD k) :
      (resultWord s).extractLsb' i w = y :=
    extractLsb'_eq_of_bits fun k hk => (getLsbD_resultWord s (by omega)).trans (h k hk)
  refine ⟨rfl, hfield (by decide) ?_, hfield (by decide) ?_, hfield (by decide) ?_, hfield (by decide) ?_,
    hfield (by decide) ?_, hfield (by decide) ?_⟩
  all_goals grind

/-- Settles O11: CMD reads as 0 and RXDATA as its byte by definition, and each pin stands in a bit of its own. -/
theorem cmdRxdataLinesRead : Obligations.CmdRxdataLinesRead := by
  intro s
  rw [readData_reg s (r := .cmd) rfl (by decide), readData_reg s (r := .rxdata) rfl (by decide),
    readData_reg s (r := .lines) rfl (by decide)]
  have hbit {k : Nat} {b : Bool} (hk : k < 32) (h : _ = b) : (linesWord s).getLsbD k = b :=
    (getLsbD_linesWord s hk).trans h
  refine ⟨rfl, rfl, rfl, hbit (by decide) (by simp), hbit (by decide) (by simp), hbit (by decide) (by simp),
    extractLsb'_eq_of_bits fun k hk => hbit (by omega) ?_⟩
  grind

/-- Settles O12: each write reaches its register, of which only STATUS has an effect, the clearing of error bits. -/
theorem statusAndReadOnlyWrites : Obligations.StatusAndReadOnlyWrites := by
  intro w s
  have hclear (old clear : Bool) : errAfter old clear false = (old && !clear) := Bool.or_false _
  refine ⟨?_, hostWrite_reg w s (r := .result) rfl (by decide), hostWrite_reg w s (r := .rxdata) rfl (by decide),
    hostWrite_reg w s (r := .lines) rfl (by decide)⟩
  rw [hostWrite_reg w s (r := .status) rfl (by decide)]
  simp only [writeReg, clearErrs, hclear]

/-- Settles O21: the reset state is a literal, read register by register. -/
theorem resetValues : Obligations.ResetValues :=
  ⟨rfl, rfl, rfl, rfl, rfl, rfl, rfl, rfl, rfl, rfl, fun _ => rfl, rfl, rfl, rfl⟩

end Sys2Proof.Machine.Proofs
end

section
/-! O7, O8, O13 to O15, O58. TXBUF and the error responses of the host window. -/

namespace Sys2Proof.Machine.Proofs
open Sys2Proof.Machine.Laws Sys2Proof.Expected

/-! ### Byte order of host data -/

/-- Bit `j` of host data is bit `j % 8` of byte `j / 8`, little-endian (20_memory.md R93). -/
theorem getLsbD_wordOfBytes (bs : List Byte) {j : Nat} (hj : j < 32) :
    (wordOfBytes bs).getLsbD j = (bs.getD (j / 8) 0#8).getLsbD (j % 8) := by
  induction bs generalizing j with
  | nil => simp [wordOfBytes]
  | cons b bs ih =>
    rw [wordOfBytes, BitVec.getLsbD_or, BitVec.getLsbD_shiftLeft, BitVec.getLsbD_setWidth]
    by_cases h8 : j < 8
    · rw [Nat.div_eq_of_lt h8, Nat.mod_eq_of_lt h8]
      simp [hj, h8]
    · have hge : 8 ≤ j := Nat.not_lt.mp h8
      rw [ih (by omega), BitVec.getLsbD_of_ge b j hge, Nat.div_eq_sub_div (by decide) hge, List.getD_cons_succ,
        Nat.mod_eq_sub_mod hge]
      simp [hj, h8]

/-- Byte `k` of host data made of bytes is the `k`-th of them (20_memory.md R93). -/
theorem extractLsb'_wordOfBytes {bs : List Byte} {k : Nat} (hk : k < bs.length) (h4 : bs.length ≤ 4) :
    (wordOfBytes bs).extractLsb' (8 * k) 8 = bs[k] := by
  refine extractLsb'_eq_of_bits fun m hm => ?_
  rw [getLsbD_wordOfBytes bs (by omega), show (8 * k + m) / 8 = k by omega, show (8 * k + m) % 8 = m by omega,
    List.getD_eq_getElem _ _ hk]

/-- Host data is 0 above its bytes (20_memory.md R93). -/
theorem wordOfBytes_lt (bs : List Byte) : (wordOfBytes bs).toNat < 2 ^ (8 * bs.length) := by
  refine Nat.lt_pow_two_of_testBit _ fun j hj => ?_
  rw [← BitVec.getLsbD]
  by_cases h32 : j < 32
  · rw [getLsbD_wordOfBytes bs h32, List.getD_eq_default _ _ (by omega), BitVec.getLsbD_zero]
  · exact BitVec.getLsbD_of_ge _ j (Nat.not_lt.mp h32)

/-- The lowest `n` bytes of `v`, put together again, are `v` cut to `n` bytes (20_memory.md R93). -/
theorem wordOfBytes_dataByte (v : Word) (n : Nat) :
    (wordOfBytes ((List.range n).map (dataByte v))).toNat = v.toNat % 2 ^ (8 * n) := by
  refine Nat.eq_of_testBit_eq fun j => ?_
  rw [Nat.testBit_mod_two_pow, ← BitVec.getLsbD, ← BitVec.getLsbD]
  by_cases h32 : j < 32
  · rw [getLsbD_wordOfBytes _ h32]
    by_cases hn : j < 8 * n
    · have hk : j / 8 < n := by omega
      have hbit : (dataByte v (j / 8)).getLsbD (j % 8) = v.getLsbD j := by
        rw [dataByte, BitVec.getLsbD_extractLsb', Nat.div_add_mod]
        simp [Nat.mod_lt]
      simp [hk, hn, hbit]
    · have hk : n ≤ j / 8 := by omega
      simp [hk, hn]
  · have hge : 32 ≤ j := Nat.not_lt.mp h32
    rw [BitVec.getLsbD_of_ge _ j hge, BitVec.getLsbD_of_ge _ j hge, Bool.and_false]

/-! ### Accesses inside TXBUF -/

theorem sizeBytes_le_four (size : Size) : sizeBytes size ≤ 4 := by cases size <;> decide

section InsideTxbuf
variable {off : Offset} {size : Size} {i : Nat} {s : State} (ho : off.toNat = 0x100 + i)
  (hi : i + sizeBytes size ≤ s.txbufSize) (ha : off.toNat % sizeBytes size = 0)
include ho hi ha

/-- An aligned write wholly inside TXBUF is a write of TXBUF (20_memory.md R92, R95). -/
theorem hostWrite_txbuf (v : Word) : hostWrite off size v s = writeTxbuf i (sizeBytes size) v s := by
  rw [hostWrite, target_inside ho hi ha]

theorem hostWrite_txbuf_busy (v : Word) (hb : s.busy = true) : hostWrite off size v s = setErr .overrun s := by
  rw [hostWrite_txbuf ho hi ha, writeTxbuf, if_pos hb]

theorem hostWrite_txbuf_idle (v : Word) (hb : s.busy = false) :
    hostWrite off size v s =
      { s with txbuf := Memory.writeBytes s.txbuf i ((List.range (sizeBytes size)).map (dataByte v)) } := by
  rw [hostWrite_txbuf ho hi ha, writeTxbuf, if_neg (by simp [hb])]

/-- An aligned read wholly inside TXBUF (20_memory.md R91, R93, R94). -/
theorem readData_txbuf :
    readData off size s =
      (wordOfBytes ((List.range (sizeBytes size)).map fun k =>
          (Memory.read s.txbuf (i + k)).getD (Config.drawByte (s.draws + k))),
        { s with draws := s.draws + sizeBytes size }) := by
  rw [readData, target_inside ho hi ha]
  simp only [readTxbuf_eq]

end InsideTxbuf

/-- A byte of a stored word reads as stored (20_memory.md R92). -/
theorem read_storedWord {size n i k : Nat} {m : List Host.Cell} (v : Word) (hm : Memory.wf size m = true)
    (hi : i + n ≤ size) (hk : k < n) :
    Memory.read (Memory.writeBytes m i ((List.range n).map (dataByte v))) (i + k) = some (dataByte v k) := by
  rw [read_writeBytes_inside hm _ (by simpa using hi) (by simpa using hk)]
  simp

/-- Settles O13: the write reaches TXBUF, where the bytes stored are those of the word, at consecutive indices. -/
theorem txbufWrite : Obligations.TxbufWrite := by
  intro off size v s i hm ho hi ha
  refine ⟨fun hb => ?_, fun hb => ?_⟩
  · rw [hostWrite_txbuf_busy ho hi ha v hb]
    simp [setErr, errAfter]
  · rw [hostWrite_txbuf_idle ho hi ha v hb]
    exact ⟨rfl, fun k hk => read_storedWord v hm hi hk,
      fun j hj => read_writeBytes_outside hm _ (by simpa using hi) (by simpa using hj)⟩

/-- Settles O15: the read reaches TXBUF, and host data keeps its bytes apart. -/
theorem txbufRead : Obligations.TxbufRead := by
  intro off size s i ho hi ha
  rw [readData_txbuf ho hi ha]
  refine ⟨rfl, fun k hk => ?_, by simpa using wordOfBytes_lt (List.map _ (List.range (sizeBytes size)))⟩
  rw [extractLsb'_wordOfBytes (by simpa using hk) (by simpa using sizeBytes_le_four size)]
  simp

/-- Settles O14: each byte read is the one stored, and the word's bytes put together again are the word. -/
theorem txbufStoreThenLoad : Obligations.TxbufStoreThenLoad := by
  intro off size v s hm hb hlo hhi ha
  obtain ⟨i, ho⟩ := Nat.exists_eq_add_of_le hlo
  have hi : i + sizeBytes size ≤ s.txbufSize := by omega
  rw [hostWrite_txbuf_idle ho hi ha v hb,
    readData_txbuf (s := { s with txbuf := Memory.writeBytes s.txbuf i _ }) ho hi ha, ← wordOfBytes_dataByte]
  refine congrArg (fun bs => (wordOfBytes bs).toNat) (List.map_congr_left fun k hk => ?_)
  rw [read_storedWord v hm hi (List.mem_range.mp hk), Option.getD_some]

/-! ### Accesses outside the map -/

/-- A register stands at one of five offsets (20_memory.md R81). -/
theorem mem_offsets_of_regAt {a : Nat} {r : Reg} (h : regAt a = some r) : a ∈ [0x000, 0x004, 0x008, 0x00C, 0x010] := by
  unfold regAt at h
  split at h
  case h_6 => cases h
  all_goals simp

/-- An access that is neither a 32-bit access of a register nor aligned inside TXBUF reaches nothing
(20_memory.md R82, R83, R95). -/
theorem target_outside {n : Nat} {off : Offset} {size : Size}
    (hreg : ¬ (size = .word ∧ off.toNat ∈ [0x000, 0x004, 0x008, 0x00C, 0x010]))
    (hbuf : ¬ (0x100 ≤ off.toNat ∧ off.toNat + sizeBytes size ≤ 0x100 + n ∧ off.toNat % sizeBytes size = 0)) :
    target n off size = .error := by
  unfold target txbufBase
  dsimp only
  rw [if_neg hbuf]
  cases size with
  | byte | half => rfl
  | word =>
    cases hr : regAt off.toNat with
    | none => rfl
    | some r => exact absurd ⟨rfl, mem_offsets_of_regAt hr⟩ hreg

/-- Settles O7: such an access reaches nothing, so only the record of bus errors grows. -/
theorem errorResponse : Obligations.ErrorResponse := by
  intro off size w s hreg hbuf
  rw [hostWrite, readData, target_outside hreg hbuf]
  exact ⟨rfl, rfl⟩

/-! ### The record of bus errors -/

theorem busErrors_prefix_readData (off : Offset) (size : Size) (s : State) :
    s.busErrors <+: (readData off size s).2.busErrors := by
  unfold readData
  split
  · exact List.prefix_rfl
  · rw [readTxbuf_eq]
  · exact List.prefix_append _ _

theorem busErrors_prefix_hostWrite (off : Offset) (size : Size) (w : Word) (s : State) :
    s.busErrors <+: (hostWrite off size w s).busErrors := by
  rcases hostWrite_cases off size w s with ⟨e, h⟩ | h | ⟨i, -, -, -, h⟩ | ⟨i, -, -, h⟩ | h | h <;> rw [h] <;> simp

theorem busErrors_prefix_hostOp (op : HostOp) (s : State) : s.busErrors <+: (hostOp op s).busErrors := by
  cases op with
  | write off size w => exact busErrors_prefix_hostWrite off size w s
  | read off size => exact busErrors_prefix_readData off size s
  | poll off mask value =>
    rw [hostOp]
    split <;> exact busErrors_prefix_readData off .word s

theorem busErrors_prefix_hostStep (s : State) : s.busErrors <+: (hostStep s).busErrors := by
  unfold hostStep
  split
  · exact List.prefix_rfl
  · exact busErrors_prefix_hostOp _ s

/-- Settles O8: a host step may add to the record, and neither an engine step nor the reset input touches it. -/
theorem busErrorsNeverCleared : Obligations.BusErrorsNeverCleared := by
  intro s t h
  obtain ⟨turns, draws, lead, ⟨rfl, -⟩ | ⟨i, -, -, he⟩ | rfl | ⟨-, rfl⟩⟩ := step_next h
  · exact List.prefix_rfl
  · obtain ⟨-, -, -, -, -, -, -, -, herr, -⟩ := commandFrame i _ t he
    rw [herr]
    exact List.prefix_rfl
  · exact busErrors_prefix_hostStep (scheduled turns draws lead s)
  · exact List.prefix_rfl

/-! ### The canonical form of TXBUF -/

/-- The canonical form does not look at the error bits, the host's records or the count of draws. -/
theorem HostRecordsOnly.memoryOk {s t : State} (h : HostRecordsOnly s t) (hs : s.MemoryOk) : t.MemoryOk := by
  rw [h]
  exact hs

/-- A host step stores nothing, or bytes inside TXBUF (20_memory.md R92, R95). -/
theorem memoryOk_hostStep {s : State} (hs : s.MemoryOk) : (hostStep s).MemoryOk := by
  rcases hostStep_cases s with hk | ⟨w, i, -, -, -, hk⟩ | ⟨i, bs, -, hi, hk⟩
  · exact hk.memoryOk hs
  · exact hk.memoryOk hs
  · exact hk.memoryOk (wf_writeBytes hs bs hi)

/-- Settles O58: the host alone stores, always inside TXBUF, and the reset input empties it. -/
theorem stepKeepsMemoryCanonical : Obligations.StepKeepsMemoryCanonical := by
  intro s t hs h
  obtain ⟨turns, draws, lead, ⟨rfl, -⟩ | ⟨i, -, -, he⟩ | rfl | ⟨-, rfl⟩⟩ := step_next h
  · exact hs
  · obtain ⟨-, -, -, -, -, hsize, hbuf, -⟩ := commandFrame i _ t he
    unfold State.MemoryOk
    rw [hsize, hbuf]
    exact hs
  · exact memoryOk_hostStep (s := scheduled turns draws lead s) hs
  · exact rfl

end Sys2Proof.Machine.Proofs
end

section
/-! O1 to O5. The encoding: command words and their fields, and the address frame. -/

namespace Sys2Proof.Machine.Proofs
open Sys2Proof.Laws Sys2Proof.Laws.OpcodeField

/-! ### The fields of a word -/

/-- Two fields side by side are one field. -/
theorem adjacent_fields {k : Nat} (x : BitVec k) (lo m n : Nat) :
    x.extractLsb' (lo + m) n ++ x.extractLsb' lo m = x.extractLsb' lo (n + m) :=
  BitVec.extractLsb'_append_extractLsb'_eq_extractLsb' rfl

/-- The fields fill the word: with RSV = 0 it is packed from them again (30_encoding.md R111, R113). -/
theorem packWord_fields {w : Word} (hr : fieldRsv w = 0#4) :
    packWord (fieldLen w) (fieldRw w) (fieldAddr7 w) (fieldOpc w) = w := by
  rw [packWord, ← hr, fieldLen, fieldRw, fieldAddr7, fieldRsv, fieldOpc, adjacent_fields w 15 1 16,
    adjacent_fields w 8 7, adjacent_fields w 4 4, adjacent_fields w 0 4]
  exact BitVec.extractLsb'_eq_self

/-- ARG is bit 15 above ADDR7 (30_encoding.md R113). -/
theorem fieldArg_eq_append (w : Word) : fieldArg w = fieldRw w ++ fieldAddr7 w :=
  (adjacent_fields w 8 7 1).symm

theorem fieldRw_of_fieldArg {w : Word} {d : Byte} (h : fieldArg w = d) : fieldRw w = d.extractLsb' 7 1 := by
  rw [← h, fieldArg_eq_append]
  exact BitVec.extractLsb'_append_eq_left.symm

theorem fieldAddr7_of_fieldArg {w : Word} {d : Byte} (h : fieldArg w = d) : fieldAddr7 w = d.extractLsb' 0 7 := by
  rw [← h, fieldArg_eq_append]
  exact BitVec.extractLsb'_append_eq_right.symm

/-- Bits 31:8, which a format-N word must have 0, are LEN and ARG (30_encoding.md R111, R116). -/
theorem bits31To8_eq_zero_iff (w : Word) : w.extractLsb' 8 24 = 0#24 ↔ fieldArg w = 0#8 ∧ fieldLen w = 0#16 := by
  have hbits : w.extractLsb' 8 24 = fieldLen w ++ fieldArg w := (adjacent_fields w 8 8 16).symm
  rw [hbits]
  refine ⟨fun h => ⟨?_, ?_⟩, fun ⟨ha, hl⟩ => by rw [ha, hl]; rfl⟩
  · exact BitVec.extractLsb'_append_eq_right.symm.trans (congrArg (BitVec.extractLsb' 0 8) h)
  · exact BitVec.extractLsb'_append_eq_left.symm.trans (congrArg (BitVec.extractLsb' 8 16) h)

/-- The two halves of a data byte, as ARG holds them (30_encoding.md R113). -/
theorem byte_halves (d : Byte) : d.extractLsb' 7 1 ++ d.extractLsb' 0 7 = d :=
  (adjacent_fields d 0 7 1).trans BitVec.extractLsb'_eq_self

theorem rw_eq_of_ofBit {b : BitVec 1} {rw : Rw} (h : Rw.ofBit b = rw) : b = rw.toBit := by
  rw [← h, rw_toBit_ofBit]

/-! ### The decoder, read forwards and backwards -/

/-- The fields above bits 7:0 spell the operands of `i`, and every bit that must be zero is (30_encoding.md R116). -/
def OperandFields (w : Word) : Instr → Prop
  | .sendAddr a rw => fieldLen w = 0#16 ∧ fieldAddr7 w = a ∧ Rw.ofBit (fieldRw w) = rw
  | .sendByte d => fieldLen w = 0#16 ∧ fieldArg w = d
  | .writeTxn a len => fieldRw w = 0#1 ∧ fieldAddr7 w = a ∧ fieldLen w = len
  | .init | .start | .stop | .waitAck | .ack | .readByte => fieldArg w = 0#8 ∧ fieldLen w = 0#16

theorem decodeFormatN_ok_iff {w : Word} {i j : Instr} :
    decodeFormatN w i = .ok j ↔ (fieldArg w = 0#8 ∧ fieldLen w = 0#16) ∧ i = j := by
  unfold decodeFormatN
  split_ifs <;> simp_all

theorem decodeFormatN_error_iff (w : Word) (i : Instr) :
    (∃ e, decodeFormatN w i = .error e) ↔ ¬ (fieldArg w = 0#8 ∧ fieldLen w = 0#16) := by
  unfold decodeFormatN
  split_ifs <;> simp_all

/-- What a word that decodes to `i` carries in each field. -/
theorem fields_of_decode {w : Word} {i : Instr} (h : decode w = .ok i) :
    fieldRsv w = 0#4 ∧ fieldOpc w = opcode i ∧ OperandFields w i := by
  unfold decode at h
  split at h
  · cases h
  rename_i hr
  refine ⟨not_not.mp hr, ?_⟩
  split at h <;> rename_i hopc
  case h_4 | h_5 | h_9 =>
    split at h
    · rename_i hfield
      cases h
      exact ⟨BitVec.eq_of_toNat_eq hopc, by simp [OperandFields, hfield]⟩
    · cases h
  case h_10 => cases h
  all_goals
    obtain ⟨hzero, rfl⟩ := decodeFormatN_ok_iff.mp h
    exact ⟨BitVec.eq_of_toNat_eq hopc, hzero⟩

/-- A word that carries the fields of `i` is the word of `i` (30_encoding.md R117). -/
theorem eq_encode_of_fields {w : Word} {i : Instr} (hr : fieldRsv w = 0#4) (ho : fieldOpc w = opcode i)
    (hf : OperandFields w i) : w = encode i := by
  rw [← packWord_fields hr, ho]
  cases i with
  | sendAddr a rw =>
    obtain ⟨hlen, haddr, hrw⟩ := hf
    rw [hlen, haddr, rw_eq_of_ofBit hrw]
    rfl
  | sendByte d =>
    obtain ⟨hlen, harg⟩ := hf
    rw [hlen, fieldRw_of_fieldArg harg, fieldAddr7_of_fieldArg harg]
    rfl
  | writeTxn a len =>
    obtain ⟨hrw, haddr, hlen⟩ := hf
    rw [hrw, haddr, hlen]
    rfl
  | init | start | stop | waitAck | ack | readByte =>
    obtain ⟨harg, hlen⟩ := hf
    rw [hlen, fieldRw_of_fieldArg harg, fieldAddr7_of_fieldArg harg]
    rfl

/-- A word that carries the fields of `i` decodes to `i`: every test of R116 passes. -/
theorem decode_of_fields {w : Word} {i : Instr} (hr : fieldRsv w = 0#4) (ho : fieldOpc w = opcode i)
    (hf : OperandFields w i) : decode w = .ok i := by
  rw [decode, if_neg (not_not.mpr hr), ho]
  cases i with
  | sendAddr a rw =>
    obtain ⟨hlen, rfl, rfl⟩ := hf
    exact if_pos hlen
  | sendByte d =>
    obtain ⟨hlen, rfl⟩ := hf
    exact if_pos hlen
  | writeTxn a len =>
    obtain ⟨hrw, rfl, rfl⟩ := hf
    exact if_pos hrw
  | init | start | stop | waitAck | ack | readByte => exact decodeFormatN_ok_iff.mpr ⟨hf, rfl⟩

theorem opcodeField_encode (i : Instr) : fieldOpc (encode i) = opcode i ∧ fieldRsv (encode i) = 0#4 := by
  cases i with
  | init => exact OpcodeField.init
  | start => exact OpcodeField.start
  | stop => exact OpcodeField.stop
  | sendAddr a rw => exact OpcodeField.sendAddr a rw
  | sendByte d => exact OpcodeField.sendByte d
  | waitAck => exact OpcodeField.waitAck
  | ack => exact OpcodeField.ack
  | readByte => exact OpcodeField.readByte
  | writeTxn a len => exact OpcodeField.writeTxn a len

/-- The word of a command carries its operands, and 0 in every bit that must be zero (30_encoding.md R118). -/
theorem operandFields_encode (i : Instr) : OperandFields (encode i) i := by
  cases i with
  | sendAddr a rw => exact ⟨fieldLen_packWord .., fieldAddr7_packWord .., by simp [encode]⟩
  | sendByte d => exact ⟨fieldLen_packWord .., (fieldArg_packWord ..).trans (byte_halves d)⟩
  | writeTxn a len => exact ⟨fieldRw_packWord .., fieldAddr7_packWord .., fieldLen_packWord ..⟩
  | init | start | stop | waitAck | ack | readByte => exact ⟨fieldArg_packWord .., fieldLen_packWord ..⟩

/-- Settles O1: the word of a command carries its fields, and a word that carries them decodes to it. -/
theorem decodeOfEncode : Obligations.DecodeOfEncode := by
  intro i
  obtain ⟨ho, hr⟩ := opcodeField_encode i
  exact decode_of_fields hr ho (operandFields_encode i)

/-- Settles O2: decoding fixes every field, and the fields fill the word. -/
theorem decodedWordIsTheEncoding : Obligations.DecodedWordIsTheEncoding := by
  intro w i h
  obtain ⟨hr, ho, hf⟩ := fields_of_decode h
  exact eq_encode_of_fields hr ho hf

/-! ### The ILLEGAL words -/

/-- OPC of a command without operands (30_encoding.md R112, R114). -/
def formatNOpcodes : List (BitVec 4) := [0x1#4, 0x2#4, 0x3#4, 0x6#4, 0x7#4, 0x8#4]

/-- OPC of the two sends. -/
def sendOpcodes : List (BitVec 4) := [0x4#4, 0x5#4]

/-- An opcode the table does not list. -/
def UnlistedOpcode (c : BitVec 4) : Prop := c = 0x0#4 ∨ 0xA ≤ c.toNat

/-- Every opcode is of exactly one of the four kinds the decoder tells apart. -/
theorem opcode_kinds (c : BitVec 4) :
    UnlistedOpcode c ∨
    (c ∈ formatNOpcodes ∧ ¬ UnlistedOpcode c ∧ c ∉ sendOpcodes ∧ c ≠ 0x9#4) ∨
    (c ∈ sendOpcodes ∧ ¬ UnlistedOpcode c ∧ c ∉ formatNOpcodes ∧ c ≠ 0x9#4) ∨
    (c = 0x9#4 ∧ ¬ UnlistedOpcode c ∧ c ∉ formatNOpcodes ∧ c ∉ sendOpcodes) := by
  revert c
  unfold UnlistedOpcode
  decide

theorem exists_ite_error_iff {p : Prop} [Decidable p] {i : Instr} {e : IllegalWord} :
    (∃ e', (if p then .ok i else .error e : Except IllegalWord Instr) = .error e') ↔ ¬ p := by
  split_ifs with hp <;> simp [hp]

section Illegal
variable {w : Word}

theorem decode_error_of_rsv (hr : fieldRsv w ≠ 0#4) : ∃ e, decode w = .error e := ⟨_, if_pos hr⟩

variable (hr : fieldRsv w = 0#4)
include hr

theorem decode_error_of_unlisted (ho : UnlistedOpcode (fieldOpc w)) : ∃ e, decode w = .error e := by
  have hnat : (fieldOpc w).toNat = 0 ∨ 0xA ≤ (fieldOpc w).toNat := ho.imp_left (congrArg BitVec.toNat)
  refine ⟨.opcode, ?_⟩
  rw [decode, if_neg (not_not.mpr hr)]
  split
  case h_10 => rfl
  all_goals omega

theorem decode_error_formatN_iff (ho : fieldOpc w ∈ formatNOpcodes) :
    (∃ e, decode w = .error e) ↔ ¬ (fieldArg w = 0#8 ∧ fieldLen w = 0#16) := by
  simp only [formatNOpcodes, List.mem_cons, List.not_mem_nil, or_false] at ho
  rcases ho with ho | ho | ho | ho | ho | ho <;>
    · rw [decode, hr, ho]
      exact decodeFormatN_error_iff w _

theorem decode_error_send_iff (ho : fieldOpc w ∈ sendOpcodes) : (∃ e, decode w = .error e) ↔ ¬ fieldLen w = 0#16 := by
  simp only [sendOpcodes, List.mem_cons, List.not_mem_nil, or_false] at ho
  rcases ho with ho | ho <;>
    · rw [decode, hr, ho]
      exact exists_ite_error_iff

theorem decode_error_writeTxn_iff (ho : fieldOpc w = 0x9#4) : (∃ e, decode w = .error e) ↔ ¬ fieldRw w = 0#1 := by
  rw [decode, hr, ho]
  exact exists_ite_error_iff

end Illegal

/-- Bit 15 is the RW field (30_encoding.md R113). -/
theorem getLsbD_fifteen_iff (w : Word) : w.getLsbD 15 = true ↔ ¬ fieldRw w = 0#1 := by
  rw [BitVec.getLsbD_eq_extractLsb', beq_iff_eq]
  exact (by decide : ∀ b : BitVec 1, b = 1#1 ↔ ¬ b = 0#1) (fieldRw w)

/-- Settles O3: RSV is tested first; each kind of opcode then has its own must-be-zero bits. -/
theorem illegalWords : Obligations.IllegalWords := by
  intro w
  change _ ↔ fieldRsv w ≠ 0#4 ∨ fieldOpc w = 0x0#4 ∨ 0xA ≤ (fieldOpc w).toNat ∨
    (fieldOpc w ∈ formatNOpcodes ∧ ¬ w.extractLsb' 8 24 = 0#24) ∨
    (fieldOpc w ∈ sendOpcodes ∧ ¬ fieldLen w = 0#16) ∨ (fieldOpc w = 0x9#4 ∧ w.getLsbD 15 = true)
  rw [bits31To8_eq_zero_iff, getLsbD_fifteen_iff, ← or_assoc (a := fieldOpc w = 0x0#4), ← UnlistedOpcode]
  by_cases hr : fieldRsv w = 0#4
  · rcases opcode_kinds (fieldOpc w) with ho | ⟨ho, hu, hs, h9⟩ | ⟨ho, hu, hn, h9⟩ | ⟨ho, hu, hn, hs⟩
    · exact iff_of_true (decode_error_of_unlisted hr ho) (.inr (.inl ho))
    · rw [decode_error_formatN_iff hr ho]
      simp only [hr, ho, hu, hs, h9, ne_eq, not_true, true_and, false_and, false_or, or_false]
    · rw [decode_error_send_iff hr ho]
      simp only [hr, ho, hu, hn, h9, ne_eq, not_true, true_and, false_and, false_or, or_false]
    · rw [decode_error_writeTxn_iff hr ho]
      simp only [hr, hu, hn, hs, eq_true ho, ne_eq, not_true, true_and, false_and, false_or]
  · exact iff_of_true (decode_error_of_rsv hr) (.inl hr)

/-! ### Ten words, and the address frame -/

/-- Settles O4: ten fixed words are evaluated. -/
theorem sampleWordsDecode : Obligations.SampleWordsDecode := by
  unfold Obligations.SampleWordsDecode
  decide

/-- Settles O5: the frame is a concatenation, whose lower part is one bit. -/
theorem addressFrameValue : Obligations.AddressFrameValue := by
  intro a rw
  refine ⟨addressFrame_eq_append a rw, ?_⟩
  have hbit : rw.toBit.toNat < 2 ^ 1 := rw.toBit.isLt
  rw [addressFrame_eq_append, BitVec.toNat_append, ← Nat.shiftLeft_add_eq_or_of_lt hbit, Nat.shiftLeft_eq, Nat.pow_one,
    Nat.mul_comm]

end Sys2Proof.Machine.Proofs
end

section
/-! O19. Host turns, and what each operation of the host's program does. -/

namespace Sys2Proof.Machine.Proofs
open Sys2Proof.Machine.Laws

theorem hostStep_nil {s : State} (h : s.hostProg = []) : hostStep s = s := by
  rw [hostStep, h]

theorem hostStep_cons {s : State} {op : HostOp} {prog : List HostOp} (h : s.hostProg = op :: prog) :
    hostStep s = hostOp op s := by
  rw [hostStep, h]

/-- A host read keeps the host's program and its record until that read itself is recorded. -/
theorem readData_keeps (off : Offset) (size : Size) (s : State) :
    (readData off size s).2.hostReads = s.hostReads ∧ (readData off size s).2.hostProg = s.hostProg := by
  obtain ⟨d, errs, h⟩ := readData_state off size s
  rw [h]
  exact ⟨rfl, rfl⟩

theorem hostAdvance_hostWrite {s : State} {op : HostOp} {prog : List HostOp} (h : s.hostProg = op :: prog)
    (off : Offset) (size : Size) (w : Word) :
    hostAdvance (hostWrite off size w s) = { hostWrite off size w s with hostProg := prog } := by
  rw [hostAdvance, (hostWrite_keeps off size w s).1, h, List.tail_cons]

/-- A host read appends what it returned to the record, and leaves the host's program to be moved on (log entry 8). -/
theorem hostRead_eq (off : Offset) (size : Size) (s : State) :
    hostRead off size s = { (readData off size s).2 with
      hostReads := s.hostReads ++ [{ off := off, size := size, data := (readData off size s).1 }]
      hostProg := s.hostProg } := by
  obtain ⟨hreads, hprog⟩ := readData_keeps off size s
  rw [← hreads, ← hprog]
  rfl

theorem hostAdvance_hostRead {s : State} {op : HostOp} {prog : List HostOp} (h : s.hostProg = op :: prog)
    (off : Offset) (size : Size) :
    hostAdvance (hostRead off size s) = { (readData off size s).2 with
      hostReads := s.hostReads ++ [{ off := off, size := size, data := (readData off size s).1 }]
      hostProg := prog } := by
  rw [hostRead_eq, hostAdvance, h, List.tail_cons]

theorem engineStep_idle {s : State} (h : s.busy = false) : engineStep s = .next s := by
  simp [engineStep, h]

/-- Settles O19: the turn names the agent, an idle engine passes, and each operation of the host's program is what
`hostOp` makes of it, with the program as `hostWrite` and `readData` leave it. -/
theorem hostTurnAlwaysEnabled : Obligations.HostTurnAlwaysEnabled := by
  intro s
  refine ⟨fun rest h => ?_, fun rest h hb => ?_, hostStep_nil, fun off size w prog h => ?_, fun off size prog h => ?_,
    fun off mask value prog h => ?_⟩
  · rw [step, h]
  · rw [step, h]
    exact engineStep_idle hb
  · rw [hostStep_cons h]
    exact hostAdvance_hostWrite h off size w
  · rw [hostStep_cons h]
    exact hostAdvance_hostRead h off size
  · rw [hostStep_cons h, hostOp]
    split
    · exact hostAdvance_hostRead h off .word
    · exact hostRead_eq off .word s

end Sys2Proof.Machine.Proofs
end

section
/-! O6, O16. Acceptance, and what a host step leaves alone while a command runs. -/

namespace Sys2Proof.Machine.Proofs
open Sys2Proof.Machine.Laws

/-- A 32-bit write of offset 0 offers its word to the block (40_bit_sequencer.md R153). -/
theorem hostWrite_cmd (w : Word) (s : State) : hostWrite 0x000 .word w s = offer w s :=
  hostWrite_reg (r := .cmd) w s rfl (by decide)

section Offer
variable {w : Word} {i : Instr} {s : State}

theorem offer_busy (hb : s.busy = true) : offer w s = setErr .overrun s := if_pos hb

theorem offer_illegal (hb : s.busy = false) {e : IllegalWord} (hd : decode w = .error e) :
    offer w s = setErr .illegal s := by
  simp [offer, hb, hd]

theorem offer_refused (hb : s.busy = false) (hd : decode w = .ok i) {e : ErrBit} (hr : refusalOf i s = some e) :
    offer w s = setErr e s := by
  simp [offer, hb, hd, hr]

theorem offer_accepted (hb : s.busy = false) (hd : decode w = .ok i) (hr : refusalOf i s = none) :
    offer w s = accept w s := by
  simp [offer, hb, hd, hr]

end Offer

/-! ### The error bit a refusal sets -/

theorem setErr_overrun (s : State) : setErr .overrun s = { s with errOverrun := true } := by simp [setErr, errAfter]

theorem setErr_illegal (s : State) : setErr .illegal s = { s with errIllegal := true } := by simp [setErr, errAfter]

theorem setErr_noinit (s : State) : setErr .noinit s = { s with errNoinit := true } := by simp [setErr, errAfter]

theorem setErr_len (s : State) : setErr .len s = { s with errLen := true } := by simp [setErr, errAfter]

/-! ### The tests of an idle block -/

theorem refusalOf_noinit {i : Instr} {s : State} (hinit : s.initDone = false) (hi : i ≠ .init) :
    refusalOf i s = some .noinit := if_pos ⟨hinit, hi⟩

theorem refusalOf_len {i : Instr} {s : State} (hinit : s.initDone = true) (hlen : s.txbufSize < payloadLen i) :
    refusalOf i s = some .len := by
  simp [refusalOf, hinit, hlen]

/-- An admitted command is not refused (40_bit_sequencer.md R153). -/
theorem refusalOf_admitted {i : Instr} {s : State} (h : Admitted i s) : refusalOf i s = none := by
  obtain ⟨hinit, hlen⟩ := h
  have hnoinit : ¬ (s.initDone = false ∧ i ≠ .init) := by
    rintro ⟨hdone, hi⟩
    rcases hinit with h | h
    · simp [hdone] at h
    · exact hi h
  simp [refusalOf, hnoinit, Nat.not_lt.mpr hlen]

/-- Only WRITE_TXN asks anything of TXBUF (30_encoding.md R113). -/
theorem payloadLen_le {i : Instr} {n : Nat} (h : ∀ a len, i = .writeTxn a len → len.toNat ≤ n) :
    payloadLen i ≤ n := by
  cases i with
  | writeTxn a len => exact h a len rfl
  | init | start | stop | sendAddr | sendByte | waitAck | ack | readByte => exact Nat.zero_le n

/-- Settles O6: each test of acceptance that fails sets its own error bit, and a command that passes all is latched. -/
theorem commandAcceptance : Obligations.CommandAcceptance := by
  intro w s
  rw [hostWrite_cmd]
  refine ⟨fun hb => ?_, fun hb e hd => ?_, fun hb i hd hinit hi => ?_, fun hb a len hd hinit hlen => ?_,
    fun hb i hd hinit hlen => ?_⟩
  · rw [offer_busy hb, setErr_overrun]
  · rw [offer_illegal hb hd, setErr_illegal]
  · rw [offer_refused hb hd (refusalOf_noinit hinit hi), setErr_noinit]
  · rw [offer_refused hb hd (refusalOf_len hinit hlen), setErr_len]
  · rw [offer_accepted hb hd (refusalOf_admitted ⟨hinit, payloadLen_le hlen⟩)]
    rfl

/-- While a command runs a host step touches the error bits and the host's records only (40_bit_sequencer.md R156). -/
theorem hostStep_recordsOnly {s : State} (hb : s.busy = true) : HostRecordsOnly s (hostStep s) := by
  rcases hostStep_cases s with hk | ⟨w, i, hnb, -⟩ | ⟨i, bs, hnb, -⟩
  · exact hk
  · simp [hb] at hnb
  · simp [hb] at hnb

/-- Settles O16: acceptance and stores in TXBUF both ask for BUSY = 0. -/
theorem hostCannotDisturbCommand : Obligations.HostCannotDisturbCommand := fun _ hb => hostStep_recordsOnly hb

end Sys2Proof.Machine.Proofs
end

section
/-! O17, O23, O26, O57. The engine's step: when it is performed, and what it takes of time. -/

namespace Sys2Proof.Machine.Proofs
open Sys2Proof.Machine.Laws

/-! ### At its primitives a command does not stop -/

/-- At each of its primitives a command answers a next state. -/
theorem exec_isNext {i : Instr} {s : State} (h : atPrimitive i s.upc = true) : ∃ t, exec i s = .next t := by
  rw [exec_eq_runCode]
  exact runCode_isNext (of_decide_eq_true h)

/-- Settles O23: the position names a primitive, and every engine step is one event. -/
theorem everyPrimitiveIsPerformed : Obligations.EveryPrimitiveIsPerformed := by
  intro i s h
  obtain ⟨t, ht⟩ := exec_isNext h
  obtain ⟨e, htrace, -⟩ := exec_oneEvent ht
  exact ⟨t, e, ht, htrace⟩

theorem engineStep_busy {i : Instr} {s : State} (hb : s.busy = true) (hd : decode s.cmd = .ok i) :
    engineStep s = exec i s := by
  simp [engineStep, hb, hd]

/-- With its latched word a command and its position a primitive of that command, the engine does not stop. -/
theorem engineStep_isNext {s : State} (h : s.SequencerOk) : ∃ t, engineStep s = .next t := by
  cases hb : s.busy with
  | false => exact ⟨s, engineStep_idle hb⟩
  | true =>
    obtain ⟨i, hd, -, hat⟩ := h hb
    rw [engineStep_busy hb hd]
    exact exec_isNext hat

/-- Settles O57: only an engine step can stop, and a sound state gives it a primitive to perform. -/
theorem soundStateNeverStops : Obligations.SoundStateNeverStops := by
  rintro s ⟨-, -, hseq, -⟩
  obtain ⟨turns, draws, lead, hs | hs | ⟨-, hs⟩⟩ := step_origin s <;> rw [hs]
  · exact engineStep_isNext (s := scheduled turns draws lead s) hseq
  · exact ⟨_, rfl⟩
  · exact ⟨_, rfl⟩

/-! ### Whose step it is -/

theorem step_noTurns {s : State} (h : s.turns = []) : step s = freeStep s := by
  rw [step, h]

theorem freeStep_noHost {s : State} (hb : s.busy = true) (hp : s.hostProg = []) : freeStep s = engineStep s := by
  simp [freeStep, hb, hp]

theorem freeStep_contend {s : State} (hb : s.busy = true) (hp : s.hostProg ≠ []) :
    freeStep s = contend (drawLead s) := by
  simp [freeStep, hb, hp]

/-- With a number of host steps already drawn, both agents contend as it says (40_bit_sequencer.md R152). -/
theorem step_contend {s : State} {k : Nat} (hb : s.busy = true) (ht : s.turns = []) (hp : s.hostProg ≠ [])
    (hl : s.lead = some k) : step s = contend s := by
  rw [step_noTurns ht, freeStep_contend hb hp, drawLead, hl]

/-- Settles O17: the turns, or where they are empty the host's program and the drawn number, say whose step it is. -/
theorem stepRunsTheLatchedCommand : Obligations.StepRunsTheLatchedCommand := by
  intro s i hb hd
  refine ⟨fun rest ht => ?_, fun ht hp => ?_, fun ht hp => ⟨fun k hl => ?_, fun hl => ?_, fun hl => ?_⟩⟩
  · rw [step, ht]
    exact engineStep_busy hb hd
  · rw [step_noTurns ht, freeStep_noHost hb hp, engineStep_busy hb hd]
  · rw [step_contend hb ht hp hl, contend, hl]
  · rw [step_contend hb ht hp hl, contend, hl]
    exact engineStep_busy (s := { s with lead := none }) hb hd
  · rw [step_contend (s := { s with lead := some (Config.hostLead s.draws), draws := s.draws + 1 }) hb ht hp rfl,
      step_noTurns ht, freeStep_contend hb hp, drawLead, hl]
    rfl

/-! ### Time -/

/-- The event of a direction, of SCL or of SDA (40_bit_sequencer.md R147). -/
def PinEvent (e : Event) : Prop := (∃ d, e = .dir d) ∨ ∃ v, e = .scl v ∨ e = .sda v ∨ e = .sdaIgnored v

theorem not_pinEvent_delay (t : Nat) : ¬ PinEvent (.delay t) := by simp [PinEvent]

theorem not_pinEvent_sample (b : Level) : ¬ PinEvent (.sample b) := by simp [PinEvent]

theorem setSda_time (v : Level) (s : State) : (setSda v s).time = s.time := by
  cases hd : s.sdaDir with
  | output => rw [setSda_output v s hd]; rfl
  | input => rw [setSda_input v s hd]; rfl

/-- Whatever Sample reads, its event says so. -/
theorem sampleSda_trace (s : State) : (sampleSda s).trace = s.trace ++ [.sample (sampleSda s).sampled] := by
  cases hd : s.sdaDir with
  | output => rw [sampleSda_output s hd]; rfl
  | input => rw [sampleSda_input s hd]; rfl

theorem event_eq_of_append {es es' : List Event} {e e' : Event} (h : es' = es ++ [e]) (h' : es' = es ++ [e']) :
    e = e' := by
  simpa using h.symm.trans h'

/-- A primitive whose event is a pin's takes no time (40_bit_sequencer.md R147). -/
theorem prim_time_of_pinEvent {p : Prim} {s : State} {e : Event} (h : (p.perform s).trace = s.trace ++ [e])
    (he : PinEvent e) : (p.perform s).time = s.time := by
  cases p with
  | setDir | driveScl => rfl
  | driveSda v => exact setSda_time v s
  | driveSdaBit k => exact setSda_time _ s
  | delay t => exact absurd (event_eq_of_append h rfl ▸ he) (not_pinEvent_delay t)
  | sample => exact absurd (event_eq_of_append h (sampleSda_trace s) ▸ he) (not_pinEvent_sample _)

/-- After its primitive an engine step adds no event and takes no time. -/
theorem exec_afterPrimitive {i : Instr} {s t : State} (h : exec i s = .next t) :
    ∃ op, (commandCode i s.upc.block)[s.upc.pos]? = some op ∧ t.trace = (op.run s).trace ∧
      t.time = (op.run s).time := by
  obtain ⟨op, hop, ⟨-, cs, rfl⟩ | ⟨b, rfl⟩ | rfl⟩ := exec_cases h
  · exact ⟨op, hop, by simp⟩
  · exact ⟨op, hop, rfl, rfl⟩
  · exact ⟨op, hop, rfl, rfl⟩

/-- Settles O26: a step's event and time are its primitive's, and only Delay and Sample take time. -/
theorem timeAdvancesByTheBound : Obligations.TimeAdvancesByTheBound := by
  intro i s t h
  obtain ⟨e, htrace, hbound⟩ := exec_oneEvent h
  refine ⟨e, htrace, hbound, fun he => ?_⟩
  obtain ⟨op, -, htr, htime⟩ := exec_afterPrimitive h
  have hprim : (op.prim.perform (runStmts op.before s)).trace = (runStmts op.before s).trace ++ [e] := by
    rw [runStmts_trace, ← htrace, htr, MicroOp.run]
  rw [htime, MicroOp.run, prim_time_of_pinEvent hprim he, runStmts_time]

end Sys2Proof.Machine.Proofs
end

section
/-! O18. Weak fairness: while a command runs and the engine does not step, the turns or the drawn number of host steps
are being used up. -/

namespace Sys2Proof.Machine.Proofs
open Sys2Proof.Machine.Laws

/-- How far the engine's next step is off: first the turns still given, then the host steps still to come before it,
where no number drawn yet counts as more than any number (log entry 10). -/
def engineDelay (s : State) : ℕ ×ₗ WithTop ℕ := toLex (s.turns.length, s.lead)

/-- The engine has stepped between `s` and `t`, or need not step. -/
def EngineServed (s t : State) : Prop := t.busy = false ∨ ∃ e, t.trace = s.trace ++ [e]

theorem engineStep_served {s t : State} (h : engineStep s = .next t) : EngineServed s t := by
  rcases engineStep_next h with ⟨hb, rfl⟩ | ⟨i, -, -, he⟩
  · exact .inl hb
  · obtain ⟨e, htrace, -⟩ := exec_oneEvent he
    exact .inr ⟨e, htrace⟩

theorem engineDelay_hostStep (s : State) : engineDelay (hostStep s) = engineDelay s := by
  obtain ⟨hturns, hlead⟩ := hostStep_keeps s
  rw [engineDelay, hturns, hlead, engineDelay]

/-- Taking a turn off the list brings the engine's step nearer. -/
theorem engineDelay_turn {s : State} {turn : Turn} {rest : List Turn} (h : s.turns = turn :: rest) :
    engineDelay { s with turns := rest } < engineDelay s := by
  rw [engineDelay, engineDelay, h]
  exact Prod.Lex.toLex_lt_toLex.mpr (.inl (Nat.lt_succ_self _))

/-- So does drawing a number of host steps, or taking one of them off. -/
theorem engineDelay_lead {s : State} {k draws : Nat} (h : ∀ m, s.lead = some m → k < m) :
    engineDelay { s with lead := some k, draws := draws } < engineDelay s := by
  refine Prod.Lex.toLex_lt_toLex.mpr (.inr ⟨rfl, ?_⟩)
  cases hl : s.lead with
  | none => exact WithTop.coe_lt_top k
  | some m => exact WithTop.coe_lt_coe.mpr (h m hl)

theorem drawLead_lead {s : State} {k m : Nat} (h : (drawLead s).lead = some k) (hm : s.lead = some m) : k = m := by
  rw [drawLead, hm] at h
  exact Option.some_inj.mp (h.symm.trans hm)

/-- Where the turns do not say whose step it is, the engine is served or its step comes nearer. -/
theorem freeStep_fair {s t : State} (hb : s.busy = true) (h : freeStep s = .next t) :
    EngineServed s t ∨ engineDelay t < engineDelay s := by
  by_cases hp : s.hostProg = []
  · rw [freeStep_noHost hb hp] at h
    exact .inl (engineStep_served h)
  · rw [freeStep_contend hb hp] at h
    obtain ⟨draws, k, hk, ⟨m, rfl, hc⟩ | ⟨-, hc⟩⟩ := contend_drawLead s <;> rw [hc] at h
    · cases h
      rw [engineDelay_hostStep]
      exact .inr (engineDelay_lead fun m' hm' => drawLead_lead hk hm' ▸ Nat.lt_succ_self m)
    · exact .inl (engineStep_served (s := { s with lead := none, draws := draws }) h)

/-- Every step serves the engine or brings its step nearer. -/
theorem step_fair {s t : State} (hb : s.busy = true) (h : step s = .next t) :
    EngineServed s t ∨ engineDelay t < engineDelay s := by
  cases hturns : s.turns with
  | nil =>
    rw [step_noTurns hturns] at h
    exact freeStep_fair hb h
  | cons turn rest =>
    rw [step, hturns] at h
    cases turn with
    | engine => exact .inl (engineStep_served (s := { s with turns := rest }) h)
    | host =>
      cases h
      rw [engineDelay_hostStep]
      exact .inr (engineDelay_turn hturns)
    | reset =>
      cases h
      exact .inl (.inl rfl)

/-- Settles O18: the engine's delay cannot fall for ever. -/
theorem engineIsWeaklyFair : Obligations.EngineIsWeaklyFair := by
  intro run hrun n
  induction hd : engineDelay (run n) using WellFoundedLT.induction generalizing n with
  | ind d ih =>
    subst hd
    by_cases hb : (run n).busy = true
    · rcases step_fair hb (hrun n) with (hidle | hevent) | hnearer
      · exact ⟨n + 1, Nat.le_succ n, .inl hidle⟩
      · exact ⟨n, Nat.le_refl n, .inr hevent⟩
      · obtain ⟨m, hm, hserved⟩ := ih _ hnearer (n + 1) rfl
        exact ⟨m, Nat.le_of_succ_le hm, hserved⟩
    · exact ⟨n, Nat.le_refl n, .inl (by simpa using hb)⟩

end Sys2Proof.Machine.Proofs
end

section
/-! O46, O47. The direction of SDA along a command's pseudocode. -/

namespace Sys2Proof.Machine.Proofs
open Sys2Proof.Machine.Laws Sys2Proof.Expected

/-- The direction of SDA after a primitive (40_bit_sequencer.md R142). -/
def dirAfter (p : Prim) (d : Dir) : Dir :=
  match p with
  | .setDir d' => d'
  | .driveScl _ | .driveSda _ | .driveSdaBit _ | .delay _ | .sample => d

/-- Pseudocode begun with SDA in direction `d` samples only with SDA an input. -/
def samplesReleased : Dir → List MicroOp → Bool
  | _, [] => true
  | d, op :: ops => (op.prim != .sample || d == .input) && samplesReleased (dirAfter op.prim d) ops

theorem samplesReleased_cons {d : Dir} {op : MicroOp} {ops : List MicroOp} :
    samplesReleased d (op :: ops) = true ↔
      (op.prim = .sample → d = .input) ∧ samplesReleased (dirAfter op.prim d) ops = true := by
  simp [samplesReleased, imp_iff_not_or]

theorem setSda_sdaDir (v : Level) (s : State) : (setSda v s).sdaDir = s.sdaDir := by
  cases hd : s.sdaDir with
  | output => rw [setSda_output v s hd]; exact hd
  | input => rw [setSda_input v s hd]; exact hd

theorem sampleSda_sdaDir (s : State) : (sampleSda s).sdaDir = s.sdaDir := by
  cases hd : s.sdaDir with
  | output => rw [sampleSda_output s hd]; exact hd
  | input => rw [sampleSda_input s hd]; exact hd

theorem prim_sdaDir (p : Prim) (s : State) : (p.perform s).sdaDir = dirAfter p s.sdaDir := by
  cases p with
  | setDir | driveScl | delay => rfl
  | driveSda v => exact setSda_sdaDir v s
  | driveSdaBit k => exact setSda_sdaDir _ s
  | sample => exact sampleSda_sdaDir s

theorem op_sdaDir (op : MicroOp) (s : State) : (op.run s).sdaDir = dirAfter op.prim s.sdaDir := by
  rw [MicroOp.run, prim_sdaDir, runStmts_sdaDir]

/-! ### The pseudocode tables -/

/-- A block releases SDA before it samples, but for the blocks of one more sample, which find it released. -/
theorem commandCode_samplesReleased (i : Instr) {b : Block} {d : Dir} (h : ∀ f, b = .poll f → d = .input) :
    samplesReleased d (commandCode i b) = true := by
  by_cases hb : b = .main
  · subst hb
    cases i <;> cases d <;> rfl
  · rcases commandCode_eq_writeTxnCode i hb with hc | ⟨a, hc⟩ <;> rw [hc]
    · rfl
    · cases b with
      | main => exact absurd rfl hb
      | poll f => rw [h f rfl]; rfl
      | acked | timeout | payload | close => cases d <;> rfl

/-- A command does not end in a Sample. -/
theorem atEnd_samplesReleased {i : Instr} {u : Upc} (h : atEnd i u) (d : Dir) :
    samplesReleased d ((commandCode i u.block).drop u.pos) = true := by
  cases i with
  | init | start | stop | sendAddr | sendByte | ack | readByte => cases h; rfl
  | waitAck => rcases h with rfl | rfl <;> rfl
  | writeTxn a len => obtain ⟨f, rfl | rfl⟩ := h <;> rfl

/-- The block before a decision on a sample ends in that Sample (42_transmit.md R197). -/
theorem prim_eq_sample {i : Instr} {u : Upc} {f : Frame} {op : MicroOp}
    (hop : (commandCode i u.block)[u.pos]? = some op) (hend : u.pos + 1 = (commandCode i u.block).length)
    (hw : waits i = true) (hf : SamplesFor u.block f) : op.prim = .sample := by
  obtain ⟨b, p⟩ := u
  rcases hf with ⟨rfl, -⟩ | rfl | ⟨⟨g, rfl⟩, -⟩
  · obtain ⟨ops, -, hc⟩ := mainCode_waits hw
    dsimp only at hop hend
    rw [hc] at hop hend
    rcases mem_of_getElem?_concat hop with ⟨hp, -⟩ | ⟨-, rfl⟩
    · rw [List.length_append, List.length_singleton] at hend
      omega
    · rfl
  · rcases commandCode_eq_writeTxnCode i (b := .poll f) nofun with hc | ⟨a, hc⟩ <;>
      dsimp only at hop <;> rw [hc] at hop
    · cases hop
    · rcases mem_of_getElem?_cons hop with ⟨-, rfl⟩ | ⟨-, hm⟩
      · rfl
      · cases hm
  · rcases txnCode_eq i g with ⟨hc, -⟩ | ⟨a, len, rfl⟩
    · simp [hc] at hop
    · cases hend
      cases hop
      rfl

/-! ### Along a run of the engine alone -/

/-- From here to the end of its block the command samples only with SDA released. -/
def SampledReleased (i : Instr) (s : State) : Prop :=
  samplesReleased s.sdaDir ((commandCode i s.upc.block).drop s.upc.pos) = true

theorem sampledReleased_blockStart {i : Instr} {b : Block} {s : State} (hu : s.upc = { block := b, pos := 0 })
    (h : ∀ f, b = .poll f → s.sdaDir = .input) : SampledReleased i s := by
  rw [SampledReleased, hu]
  exact commandCode_samplesReleased i h

/-- What is known at a primitive, of itself and of the rest of its block. -/
theorem SampledReleased.at_op {i : Instr} {s : State} {op : MicroOp} (h : SampledReleased i s)
    (hop : (commandCode i s.upc.block)[s.upc.pos]? = some op) :
    (op.prim = .sample → s.sdaDir = .input) ∧
      samplesReleased (op.run s).sdaDir ((commandCode i s.upc.block).drop (s.upc.pos + 1)) = true := by
  obtain ⟨hlt, hget⟩ := List.getElem?_eq_some_iff.mp hop
  rw [SampledReleased, List.drop_eq_getElem_cons hlt, hget] at h
  rw [op_sdaDir]
  exact samplesReleased_cons.mp h

/-- After a Sample SDA is still released for the next one, and no other block needs it so. -/
theorem exec_sampledReleased {i : Instr} {s t : State} (hs : SampledReleased i s) (h : exec i s = .next t) :
    SampledReleased i t := by
  obtain ⟨op, hop, ⟨hend, rfl⟩ | ⟨-, rfl⟩⟩ := exec_next h
  · obtain ⟨hsample, -⟩ := hs.at_op hop
    rcases blockEnd_cases hend with ⟨hat, cs, hl⟩ | ⟨hw, f, hf, hl⟩ | ⟨a, len, f, -, -, hl⟩ <;> rw [hl]
    · rw [SampledReleased, complete_upc, op_upc]
      exact atEnd_samplesReleased hat _
    · obtain ⟨b, hg, -⟩ := afterSample_goto f (op.run s)
      have hp := prim_eq_sample hop hend hw hf
      rw [hg]
      refine sampledReleased_blockStart rfl fun _ _ => ?_
      rw [goto_sdaDir, op_sdaDir, hp]
      exact hsample hp
    · obtain ⟨b, hg, hb⟩ := nextFrame_goto len f (op.run s)
      rw [hg]
      exact sampledReleased_blockStart rfl fun g hpoll => by rcases hb with rfl | rfl <;> cases hpoll
  · obtain ⟨-, hrest⟩ := hs.at_op hop
    simpa [SampledReleased] using hrest

/-- What every engine step of a command keeps, a run of it keeps. -/
theorem execN_keeps {i : Instr} {P : State → Prop} (hstep : ∀ {s t}, P s → exec i s = .next t → P t) {n : Nat}
    {s t : State} (hs : P s) (h : execN i n s = .next t) : P t := by
  induction n generalizing s with
  | zero => cases h; exact hs
  | succ n ih =>
    rw [execN] at h
    split at h
    · rename_i u hu
      exact ih (hstep hs hu) h
    · cases h
    · cases h

/-- Only Sample appends its event. -/
theorem prim_eq_sample_of_trace {p : Prim} {s : State} {b : Level} (h : (p.perform s).trace = s.trace ++ [.sample b]) :
    p = .sample := by
  have hsda (v : Level) : (setSda v s).trace ≠ s.trace ++ [.sample b] := by
    cases hd : s.sdaDir with
    | output => rw [setSda_output v s hd]; simp
    | input => rw [setSda_input v s hd]; simp
  cases p with
  | sample => rfl
  | setDir | driveScl | delay => cases event_eq_of_append h rfl
  | driveSda v => exact absurd h (hsda v)
  | driveSdaBit k => exact absurd h (hsda _)

/-- Settles O46: each block samples only where it has released SDA, or follows a Sample. -/
theorem samplesOnlyWithSdaReleased : Obligations.SamplesOnlyWithSdaReleased := by
  intro i n s u t b hu hn h htrace
  have hreleased : SampledReleased i u := execN_keeps exec_sampledReleased (sampledReleased_blockStart hu nofun) hn
  obtain ⟨op, hop, htr, -⟩ := exec_afterPrimitive h
  obtain ⟨hsample, -⟩ := hreleased.at_op hop
  refine hsample (prim_eq_sample_of_trace (s := runStmts op.before u) (b := b) ?_)
  rw [runStmts_trace, ← htrace, htr, MicroOp.run]

/-- An engine step at a primitive inside its block. -/
theorem exec_inside {i : Instr} {s : State} {op : MicroOp} (hop : (commandCode i s.upc.block)[s.upc.pos]? = some op)
    (h : s.upc.pos + 1 ≠ (commandCode i s.upc.block).length) : exec i s = .next (advance (op.run s)) :=
  (exec_eq_runCode i s).trans (runCode_inside hop h)

/-- Settles O47: WAIT_ACK's third primitive is the write, which SDA as an input ignores. -/
theorem ignoredWriteLeavesALatchDraw : Obligations.IgnoredWriteLeavesALatchDraw := by
  intro s hu hd
  have hop : (commandCode .waitAck s.upc.block)[s.upc.pos]? = some { before := [], prim := .driveSda .high } := by
    rw [hu]; rfl
  have hinside : s.upc.pos + 1 ≠ (commandCode .waitAck s.upc.block).length := by rw [hu]; decide
  rw [exec_inside hop hinside, MicroOp.run, runStmts_nil, Prim.perform, setSda_input .high s hd, advance, emit_upc,
    drawn_upc, hu]
  rfl

end Sys2Proof.Machine.Proofs
end

section
/-! O25. Every command completes within its number of primitives. A command is counted block by block: a wait by the
samples it may still take, a transaction by the payload frames it may still send. -/

namespace Sys2Proof.Machine.Proofs
open Sys2Proof.Machine.Laws Sys2Proof.Expected

/-- The engine alone brings command `i` to its completion in at most `k` steps, with BUSY = 1 before it and the lines as
they are between commands after it. -/
def CompletesWithin (i : Instr) (k : Nat) (s : State) : Prop :=
  ∃ n t, 0 < n ∧ n ≤ k ∧ execN i n s = .next t ∧ t.busy = false ∧ t.LinesOk ∧
    ∀ m, m < n → ∃ u, execN i m s = .next u ∧ u.busy = true

theorem CompletesWithin.mono {i : Instr} {k k' : Nat} {s : State} (h : CompletesWithin i k s) (hk : k ≤ k') :
    CompletesWithin i k' s := by
  obtain ⟨n, t, hn, hle, ht⟩ := h
  exact ⟨n, t, hn, hle.trans hk, ht⟩

/-! ### One whole block -/

/-- `s` after the whole pseudocode of block `b`, before what follows the block. -/
def blockEnd (i : Instr) (b : Block) (s : State) : State :=
  setUpc { block := b, pos := (commandCode i b).length - 1 } (runOps (commandCode i b) s)

theorem blockEnd_busy (i : Instr) (b : Block) (s : State) : (blockEnd i b s).busy = s.busy := runOps_busy _ s

/-- Nothing inside a block completes the command. -/
theorem execN_block_busy {i : Instr} {b : Block} {s : State} (hu : s.upc = { block := b, pos := 0 })
    (hb : s.busy = true) {m : Nat} (hm : m < (commandCode i b).length) :
    ∃ u, execN i m s = .next u ∧ u.busy = true :=
  ⟨_, execN_inside i b m 0 s hu (by omega), (runOps_busy _ s).trans hb⟩

section Blocks
variable {i : Instr} {b : Block} {s : State} (hu : s.upc = { block := b, pos := 0 })
  (hne : 0 < (commandCode i b).length)
include hu hne

/-- As many engine steps as a block has primitives perform the block and what follows it. -/
theorem execN_block : execN i (commandCode i b).length s = .next (commandLast i b (blockEnd i b s)) := by
  obtain ⟨u, hrun, hlast⟩ := execN_toEnd i b 0 ((commandCode i b).length - 1) s hu (by omega)
  have h := execN_succ hrun hlast
  rwa [Nat.sub_add_cancel hne, Nat.zero_add, List.drop_zero] at h

/-- A block that ends in the command's completion. -/
theorem completesWithin_lastBlock (hb : s.busy = true) {cs : List Stmt} (hl : commandLast i b = complete cs)
    (hlines : (blockEnd i b s).LinesOk) : CompletesWithin i (commandCode i b).length s := by
  refine ⟨_, _, hne, Nat.le_refl _, execN_block hu hne, ?_, ?_, fun m hm => execN_block_busy hu hb hm⟩
  · rw [hl, complete_busy]
  · rw [hl]
    simpa [State.LinesOk, sdaLevel, sdaMaster] using hlines

/-- A block after which the command still runs. -/
theorem completesWithin_block (hb : s.busy = true) {k : Nat}
    (h : CompletesWithin i k (commandLast i b (blockEnd i b s))) :
    CompletesWithin i ((commandCode i b).length + k) s := by
  obtain ⟨n, t, hn, hle, hrun, hbt, hlines, hbefore⟩ := h
  have hblock := execN_block hu hne
  refine ⟨_, t, Nat.add_pos_right _ hn, Nat.add_le_add_left hle _, (execN_then hblock).trans hrun, hbt, hlines,
    fun m hm => ?_⟩
  rcases Nat.lt_or_ge m (commandCode i b).length with hin | hout
  · exact execN_block_busy hu hb hin
  · obtain ⟨m, rfl⟩ := Nat.exists_eq_add_of_le hout
    rw [execN_then hblock]
    exact hbefore m (by omega)

end Blocks

/-! ### The lines at completion -/

theorem linesOk_of_scl_low {s : State} (h : s.scl = .low) : s.LinesOk := by
  simp [State.LinesOk, h]

/-- STOP_SEQ, whatever statements stand before it, leaves SDA driven HIGH (41_bus_conditions.md R174). -/
theorem linesOk_stopSeq (cs : List Stmt) (u : Upc) (s : State) : (setUpc u (runOps (enter cs stopSeq) s)).LinesOk :=
  fun _ => rfl

/-! ### Commands in one straight line -/

theorem completesWithin_straight {i : Instr} (hw : waits i = false) {s : State} (hb : s.busy = true)
    (hu : s.upc = { block := .main, pos := 0 }) : CompletesWithin i (maxPrimitives i) s := by
  cases i with
  | stop => exact completesWithin_lastBlock hu (by decide) hb rfl (linesOk_stopSeq [] _ s)
  | init | start | sendAddr | sendByte | ack | readByte =>
    exact completesWithin_lastBlock hu (Nat.succ_pos _) hb rfl (linesOk_of_scl_low rfl)
  | waitAck | writeTxn => cases hw

/-! ### A wait for an acknowledgment -/

/-- Command `i` waits for the acknowledgment of frame `f` as WAIT_SEQ says (42_transmit.md R197). -/
structure HasWait (i : Instr) (f : Frame) : Prop where
  pollCode : commandCode i (.poll f) = waitSeqAgain
  pollLast : commandLast i (.poll f) = afterSample f
  ackedCode : commandCode i (.acked f) = waitSeqAcked
  timeoutCode : commandCode i (.timeout f) = waitSeqTimeout
  timeoutLast : ∃ cs, commandLast i (.timeout f) = complete cs

theorem hasWait_waitAck : HasWait .waitAck .address := ⟨rfl, rfl, rfl, rfl, _, rfl⟩

theorem hasWait_writeTxn (a : Addr7) (len : Len) (f : Frame) : HasWait (.writeTxn a len) f :=
  ⟨rfl, rfl, rfl, rfl, _, rfl⟩

section Wait
variable {i : Instr} {f : Frame} {s : State} (hwait : HasWait i f) (hb : s.busy = true)
include hwait hb

theorem completesWithin_timeout (hu : s.upc = { block := .timeout f, pos := 0 }) : CompletesWithin i 8 s := by
  have hcode := hwait.timeoutCode
  obtain ⟨cs, hl⟩ := hwait.timeoutLast
  have hlines : (blockEnd i (.timeout f) s).LinesOk := by
    rw [blockEnd, hcode]
    exact linesOk_stopSeq [.countPoll] _ s
  have h := completesWithin_lastBlock hu (by rw [hcode]; decide) hb hl hlines
  rwa [hcode] at h

/-- A wait that may take `n` samples more completes within them and the `k` primitives that may follow an acknowledgment
or a TIMEOUT; the payload index stays as it is (42_transmit.md R200). -/
theorem completesWithin_afterSample {n k : Nat} (hk : 8 ≤ k) (hn : s.polls.toNat + n + 1 = Config.ackPollLimit)
    (hacked : ∀ t : State, t.busy = true → t.idx = s.idx → t.upc = { block := .acked f, pos := 0 } →
      CompletesWithin i k t) : CompletesWithin i (n + k) (afterSample f s) := by
  induction n generalizing s with
  | zero =>
    cases hs : s.sampled with
    | low =>
      rw [afterSample_low hs]
      exact (hacked (goto (.acked f) s) hb rfl rfl).mono (Nat.le_add_left k 0)
    | high =>
      rw [afterSample_high hs, if_pos hn]
      exact (completesWithin_timeout hwait (s := goto (.timeout f) s) hb rfl).mono (Nat.le_add_left_of_le hk)
  | succ n ih =>
    cases hs : s.sampled with
    | low =>
      rw [afterSample_low hs]
      exact (hacked (goto (.acked f) s) hb rfl rfl).mono (Nat.le_add_left k _)
    | high =>
      rw [afterSample_high hs, if_neg (by omega)]
      have hcode := hwait.pollCode
      have hpolls : (blockEnd i (.poll f) (goto (.poll f) s)).polls = s.polls + 1#8 := by
        rw [blockEnd, hcode]
        exact prim_polls .sample _
      have hidx : (blockEnd i (.poll f) (goto (.poll f) s)).idx = s.idx := by
        rw [blockEnd, hcode]
        exact prim_idx .sample _
      have hle : s.polls.toNat + 1 ≤ Config.ackPollLimit := by omega
      have hcount : (s.polls + 1#8).toNat = s.polls.toNat + 1 :=
        BitVec.toNat_add_of_lt (Nat.lt_of_le_of_lt hle (by decide))
      have hrest := ih (s := blockEnd i (.poll f) (goto (.poll f) s)) (by rwa [blockEnd_busy, goto_busy])
        (by rw [hpolls, hcount]; omega) (fun t hbt hx => hacked t hbt (hx.trans hidx))
      rw [← hwait.pollLast] at hrest
      have h := completesWithin_block (s := goto (.poll f) s) rfl (by rw [hcode]; decide) hb hrest
      rw [hcode] at h
      exact h.mono (by show 1 + (n + k) ≤ n + 1 + k; omega)

end Wait

/-- WAIT_ACK: five primitives, at most 100 samples, and at most the 8 primitives of STOP_SEQ (42_transmit.md R198). -/
theorem completesWithin_waitAck {s : State} (hb : s.busy = true) (hu : s.upc = { block := .main, pos := 0 }) :
    CompletesWithin .waitAck (maxPrimitives .waitAck) s := by
  have hbt : (blockEnd .waitAck .main s).busy = true := (blockEnd_busy ..).trans hb
  refine completesWithin_block (k := 99 + 8) hu (by decide) hb ?_
  refine completesWithin_afterSample (n := 99) hasWait_waitAck hbt (Nat.le_refl 8) rfl fun t hbt _ hut => ?_
  exact (completesWithin_lastBlock hut (by decide) hbt rfl (linesOk_of_scl_low rfl)).mono (by decide)

/-! ### A transaction -/

section Transaction
variable {a : Addr7} {len : Len} {s : State}

theorem completesWithin_close {f : Frame} (hb : s.busy = true) (hu : s.upc = { block := .close f, pos := 0 }) :
    CompletesWithin (.writeTxn a len) 8 s :=
  completesWithin_lastBlock hu (Nat.succ_pos _) hb rfl (linesOk_stopSeq _ _ s)

/-- The payload frame begun after frame `f` has the index that follows (44_transaction.md R240). -/
theorem blockEnd_payload_idx {f : Frame} (hlt : nextIdx s f < len.toNat) :
    (blockEnd (.writeTxn a len) (.payload f) s).idx.toNat = nextIdx s f := by
  cases f with
  | address => rfl
  | payload => exact BitVec.toNat_add_of_lt (Nat.lt_trans hlt len.isLt)

/-- The wait at the end of a frame has counted no sample yet (42_transmit.md R197). -/
theorem blockEnd_payload_polls (f : Frame) : (blockEnd (.writeTxn a len) (.payload f) s).polls = 0#8 := rfl

theorem blockEnd_main_polls : (blockEnd (.writeTxn a len) .main s).polls = 0#8 := rfl

/-- An acknowledged frame is followed by the decision on the next one, the payload index as it was. -/
theorem completesWithin_acked {n : Nat} {f : Frame} (hb : s.busy = true) (hu : s.upc = { block := .acked f, pos := 0 })
    (h : ∀ t : State, t.busy = true → nextIdx t f = nextIdx s f →
      CompletesWithin (.writeTxn a len) n (nextFrame len f t)) : CompletesWithin (.writeTxn a len) (1 + n) s := by
  have hidx : nextIdx (blockEnd (.writeTxn a len) (.acked f) s) f = nextIdx s f := by cases f <;> rfl
  exact completesWithin_block (i := .writeTxn a len) hu Nat.zero_lt_one hb (h _ ((blockEnd_busy ..).trans hb) hidx)

/-- A payload frame: 48 primitives with its wait's first sample, at most 99 samples more, and the acknowledgment; or, on
TIMEOUT, a STOP_SEQ of 8 primitives. -/
theorem completesWithin_payload {n : Nat} {f : Frame} (hb : s.busy = true)
    (hu : s.upc = { block := .payload f, pos := 0 }) (hlt : nextIdx s f < len.toNat) (hn : 7 ≤ n)
    (h : ∀ t : State, t.busy = true → nextIdx t .payload = nextIdx s f + 1 →
      CompletesWithin (.writeTxn a len) n (nextFrame len .payload t)) :
    CompletesWithin (.writeTxn a len) (148 + n) s := by
  refine (completesWithin_block (i := .writeTxn a len) (k := 99 + (1 + n)) hu (Nat.zero_lt_succ 47) hb ?_).mono ?_
  · refine completesWithin_afterSample (hasWait_writeTxn a len .payload) ((blockEnd_busy ..).trans hb) (by omega)
      (by rw [blockEnd_payload_polls]; decide) fun t hbt hx hut => ?_
    refine completesWithin_acked hbt hut fun t' hbt' hx' => h t' hbt' ?_
    rw [hx', nextIdx, hx, blockEnd_payload_idx hlt]
  · rw [show (commandCode (.writeTxn a len) (.payload f)).length = 48 from rfl]
    omega

/-- With at most `n` payload frames left after frame `f`, a transaction completes within those frames, each of 148
primitives at most, and its last STOP_SEQ (44_transaction.md R240, 70_reset_and_hazards.md R321). -/
theorem completesWithin_nextFrame {n : Nat} {f : Frame} (hb : s.busy = true) (hn : len.toNat ≤ nextIdx s f + n) :
    CompletesWithin (.writeTxn a len) (148 * n + 8) (nextFrame len f s) := by
  induction n generalizing s f with
  | zero =>
    rw [nextFrame, if_neg (by omega)]
    exact completesWithin_close (s := goto (.close f) s) hb rfl
  | succ n ih =>
    rw [nextFrame]
    split
    · rename_i hlt
      have hgoto : nextIdx (goto (.payload f) s) f = nextIdx s f := by cases f <;> rfl
      refine (completesWithin_payload (s := goto (.payload f) s) hb rfl hlt (by omega)
        fun t hbt hidx => ih hbt ?_).mono ?_
      · rw [hidx, hgoto]
        omega
      · omega
    · exact (completesWithin_close (s := goto (.close f) s) hb rfl).mono (by omega)

/-- WRITE_TXN: START_SEQ, its address frame with the wait, and its payload frames (44_transaction.md R240). -/
theorem completesWithin_writeTxn (hb : s.busy = true) (hu : s.upc = { block := .main, pos := 0 }) :
    CompletesWithin (.writeTxn a len) (maxPrimitives (.writeTxn a len)) s := by
  refine (completesWithin_block (i := .writeTxn a len) (k := 99 + (1 + (148 * len.toNat + 8))) hu (Nat.zero_lt_succ 53)
    hb ?_).mono ?_
  · refine completesWithin_afterSample (hasWait_writeTxn a len .address) ((blockEnd_busy ..).trans hb) (by omega)
      (by rw [blockEnd_main_polls]; decide) fun t hbt _ hut => ?_
    exact completesWithin_acked hbt hut fun t' hbt' _ => completesWithin_nextFrame hbt' (Nat.le_add_left ..)
  · rw [show (commandCode (.writeTxn a len) .main).length = 54 from rfl, maxPrimitives]
    omega

end Transaction

/-! ### Every command -/

theorem execN_trace_length {i : Instr} {n : Nat} {s t : State} (h : execN i n s = .next t) :
    t.trace.length = s.trace.length + n := by
  induction n generalizing s with
  | zero => cases h; rfl
  | succ n ih =>
    rw [execN] at h
    split at h
    · rename_i u hu
      obtain ⟨e, htrace, -⟩ := exec_oneEvent hu
      rw [ih h, htrace, List.length_append, List.length_singleton]
      omega
    · cases h
    · cases h

/-- Settles O25: a straight line, a wait, or a transaction frame by frame. -/
theorem everyCommandCompletes : Obligations.EveryCommandCompletes := by
  intro i s hb hu
  have hcompletes : CompletesWithin i (maxPrimitives i) s := by
    cases i with
    | waitAck => exact completesWithin_waitAck hb hu
    | writeTxn a len => exact completesWithin_writeTxn hb hu
    | init | start | stop | sendAddr | sendByte | ack | readByte => exact completesWithin_straight rfl hb hu
  obtain ⟨n, t, hn, hle, hrun, hbt, hlines, hbefore⟩ := hcompletes
  exact ⟨n, t, hn, hle, hrun, hbt, hlines, execN_trace_length hrun, hbefore⟩

end Sys2Proof.Machine.Proofs
end

section
/-! O29. What the steps of INIT, START, STOP, SEND_ADDR, SEND_BYTE and ACK leave alone. -/

namespace Sys2Proof.Machine.Proofs
open Sys2Proof.Machine.Laws Sys2Proof.Expected

/-! ### The pseudocode of these commands -/

/-- The commands with a Sample in them (42_transmit.md R197, 43_receive.md R223). -/
def samples : Instr → Bool
  | .waitAck | .readByte | .writeTxn _ _ => true
  | .init | .start | .stop | .sendAddr _ _ | .sendByte _ | .ack => false

/-- The commands that are one SHIFT_OUT (42_transmit.md R193, R194). -/
def sends : Instr → Bool
  | .sendAddr _ _ | .sendByte _ => true
  | .init | .start | .stop | .waitAck | .ack | .readByte | .writeTxn _ _ => false

/-- An assignment to the phase, or, where `load` says so, the load of `s.shift`. -/
def entryStmt (load : Bool) : Stmt → Bool
  | .phase _ => true
  | .loadShift _ => load
  | .initDone | .loadPayload | .clearPolls | .countPoll | .clearAcc | .insertAcc _ | .storeRxdata | .ackResult _
  | .clearIdx | .countIdx | .txnStatus _ | .txnNoAckData => false

/-- A primitive other than Sample with no other statements before it. -/
def entryOp (load : Bool) (op : MicroOp) : Bool := op.before.all (entryStmt load) && op.prim != .sample

theorem mainCode_entryOps {i : Instr} (h : samples i = false) :
    (commandCode i .main).all (entryOp (sends i)) = true := by
  cases i with
  | init | start | stop | sendAddr | sendByte | ack => rfl
  | waitAck | readByte | writeTxn => cases h

/-- A command with no Sample is its main block. -/
theorem mem_mainCode {i : Instr} (h : samples i = false) {u : Upc} {op : MicroOp}
    (hop : (commandCode i u.block)[u.pos]? = some op) : op ∈ commandCode i .main := by
  obtain ⟨b, p⟩ := u
  cases i with
  | init | start | stop | sendAddr | sendByte | ack =>
    cases b with
    | main => exact List.mem_of_getElem? hop
    | poll | acked | timeout | payload | close => cases hop
  | waitAck | readByte | writeTxn => cases h

theorem runStmts_entry {load : Bool} {cs : List Stmt} (h : cs.all (entryStmt load) = true) (s : State) :
    ∃ p v, runStmts cs s = { s with phase := p, shift := v } ∧ (load = false → v = s.shift) := by
  induction cs generalizing s with
  | nil => exact ⟨s.phase, s.shift, rfl, fun _ => rfl⟩
  | cons c cs ih =>
    simp only [List.all_cons, Bool.and_eq_true] at h
    obtain ⟨hc, hcs⟩ := h
    obtain ⟨p, v, hrun, hv⟩ := ih hcs (c.run s)
    rw [runStmts_cons, hrun]
    cases c with
    | phase q => exact ⟨p, v, rfl, hv⟩
    | loadShift x => exact ⟨p, v, rfl, fun hl => by simp [entryStmt, hl] at hc⟩
    | initDone | loadPayload | clearPolls | countPoll | clearAcc | insertAcc | storeRxdata | ackResult | clearIdx
    | countIdx | txnStatus | txnNoAckData => cases hc

/-! ### What they leave alone -/

/-- RESULT, RXDATA, the registers that count and receive, and the slave's answers. -/
def receiveSide (s : State) :=
  (s.ackResult, s.pollCount, s.txnStatus, s.txnIndex, s.rxdata, s.acc, s.polls, s.idx, s.sampled, s.slave)

/-- Only Sample asks the slave. -/
theorem receiveSide_prim {p : Prim} (h : p ≠ .sample) (s : State) : receiveSide (p.perform s) = receiveSide s := by
  have hsda (v : Level) : receiveSide (setSda v s) = receiveSide s := by
    cases hd : s.sdaDir with
    | output => rw [setSda_output v s hd]; rfl
    | input => rw [setSda_input v s hd]; rfl
  cases p with
  | setDir | driveScl | delay => rfl
  | driveSda v => exact hsda v
  | driveSdaBit k => exact hsda _
  | sample => exact absurd rfl h

theorem op_receiveSide {load : Bool} {op : MicroOp} (h : entryOp load op = true) (s : State) :
    receiveSide (op.run s) = receiveSide s ∧ (load = false → (op.run s).shift = s.shift) := by
  simp only [entryOp, Bool.and_eq_true, bne_iff_ne] at h
  obtain ⟨hbefore, hprim⟩ := h
  obtain ⟨p, v, hrun, hv⟩ := runStmts_entry hbefore s
  rw [MicroOp.run, receiveSide_prim hprim, prim_shift, hrun]
  exact ⟨rfl, hv⟩

theorem commandLast_receiveSide {i : Instr} (h : samples i = false) (b : Block) (s : State) :
    receiveSide (commandLast i b s) = receiveSide s ∧ (commandLast i b s).shift = s.shift := by
  cases i with
  | init | start | stop | sendAddr | sendByte | ack => exact ⟨rfl, rfl⟩
  | waitAck | readByte | writeTxn => cases h

theorem exec_receiveSide {i : Instr} (hi : samples i = false) {s t : State} (h : exec i s = .next t) :
    receiveSide t = receiveSide s ∧ (sends i = false → t.shift = s.shift) := by
  obtain ⟨op, hop, hcases⟩ := exec_next h
  have hentry : entryOp (sends i) op = true := List.all_eq_true.mp (mainCode_entryOps hi) op (mem_mainCode hi hop)
  have hkeeps := op_receiveSide hentry s
  rcases hcases with ⟨-, rfl⟩ | ⟨-, rfl⟩
  · obtain ⟨hkept, hshift⟩ := commandLast_receiveSide hi s.upc.block (op.run s)
    rw [hkept, hshift]
    exact hkeeps
  · exact hkeeps

/-- Settles O29: these commands take no Sample, and their only statements are the phase's and a send's load. -/
theorem busAndSendFrame : Obligations.BusAndSendFrame := by
  intro i s t hi h
  have hsamples : samples i = false := by
    rcases hi with rfl | rfl | rfl | ⟨a, rw, rfl⟩ | ⟨d, rfl⟩ | rfl <;> rfl
  obtain ⟨hkept, hshift⟩ := exec_receiveSide hsamples h
  have hinit : i ≠ .init → t.initDone = s.initDone := fun hne => (exec_initDone h).resolve_right fun h => hne h.1
  have hsends : i = .init ∨ i = .start ∨ i = .stop ∨ i = .ack → sends i = false := by
    rintro (rfl | rfl | rfl | rfl) <;> rfl
  simp only [receiveSide, Prod.mk.injEq] at hkept
  obtain ⟨hack, hcount, hstatus, hindex, hrx, hacc, hpolls, hidx, hsampled, hslave⟩ := hkept
  exact ⟨hack, hcount, hstatus, hindex, hrx, hacc, hpolls, hidx, hsampled, hslave, hinit, fun h => hshift (hsends h)⟩

end Sys2Proof.Machine.Proofs
end

section
/-! O32, O33, O35. INIT, START and STOP from start to end: each is one straight line of pseudocode, and START_SEQ and
STOP_SEQ leave one state from whatever state they find. -/

namespace Sys2Proof.Machine.Proofs
open Sys2Proof.Machine.Laws Sys2Proof.Expected

/-- Statements put in front of pseudocode run before it. -/
theorem runOps_enter (cs : List Stmt) {ops : List MicroOp} (hne : ops ≠ []) (s : State) :
    runOps (enter cs ops) s = runOps ops (runStmts cs s) := by
  cases ops with
  | nil => exact absurd rfl hne
  | cons op ops => simp [enter, MicroOp.run, runStmts_append]

/-- INIT's primitives (41_bus_conditions.md R171). -/
theorem runOps_initCode (s : State) :
    runOps initCode s = { s with
      phase := .idle, sdaDir := .output, scl := .low, sdaOut := .low
      trace := s.trace ++ [.dir .output, .scl .low, .sda .low] } := by
  simp [initCode, enter, prims, MicroOp.run, Stmt.run, Prim.perform, setSdaDir, setScl, setSda, State.emit]

/-- START_SEQ (41_bus_conditions.md R172). -/
theorem runOps_startSeq (s : State) :
    runOps startSeq s = { s with
      sdaDir := .output, scl := .low, sdaOut := .low, trace := s.trace ++ startTrace
      time := s.time + (4 + (Config.excess s.draws : Rat)), draws := s.draws + 1 } := by
  simp [startSeq, prims, MicroOp.run, Prim.perform, setSdaDir, setScl, setSda, waitFor, State.emit, State.elapse,
    State.drawn, startTrace, Config.tLong]

/-- The three delays of a STOP_SEQ begun at the `n`-th draw (41_bus_conditions.md R174). -/
def stopSeqTime (n : Nat) : Rat :=
  (4 + (Config.excess n : Rat)) + (2 + (Config.excess (n + 1) : Rat)) + (4 + (Config.excess (n + 2) : Rat))

theorem ten_le_stopSeqTime (n : Nat) : 10 ≤ stopSeqTime n := by
  have (k : Nat) : (0 : Rat) ≤ (Config.excess k : Rat) := (Config.excess k).coe_nonneg
  unfold stopSeqTime
  linarith [this n, this (n + 1), this (n + 2)]

/-- STOP_SEQ up to its last primitive (41_bus_conditions.md R174). -/
theorem runOps_stopSeq (s : State) :
    runOps stopSeq s = { s with
      phase := .stop, sdaDir := .output, scl := .high, sdaOut := .high, trace := s.trace ++ stopTrace
      time := s.time + stopSeqTime s.draws, draws := s.draws + 3 } := by
  simp [stopSeq, enter, prims, MicroOp.run, Stmt.run, Prim.perform, setSdaDir, setScl, setSda, waitFor, State.emit,
    State.elapse, State.drawn, stopTrace, stopSeqTime, Config.tLong, Config.tShort, add_assoc]

/-- A command that is one block of `n + 1` primitives, from start to end. -/
theorem exec_mainBlock {i : Instr} {n : Nat} {s : State} (hu : s.upc = { block := .main, pos := 0 })
    (hn : n + 1 = (commandCode i .main).length) :
    ∃ u, execN i n s = .next u ∧ exec i u =
      .next (commandLast i .main (setUpc { block := .main, pos := n } (runOps (commandCode i .main) s))) := by
  have h := execN_toEnd i .main 0 n s hu (by omega)
  rwa [Nat.zero_add, List.drop_zero] at h

/-- LINES with both lines driven LOW (10_state.md R56). -/
theorem linesWord_drivenLow {s : State} (hscl : s.scl = .low) (hdir : s.sdaDir = .output) (hout : s.sdaOut = .low) :
    linesWord s = 0x4#32 := by
  rw [linesWord, hscl, hdir, hout]
  decide

/-- LINES with both lines driven HIGH (10_state.md R56). -/
theorem linesWord_drivenHigh {s : State} (hscl : s.scl = .high) (hdir : s.sdaDir = .output) (hout : s.sdaOut = .high) :
    linesWord s = 0x7#32 := by
  rw [linesWord, hscl, hdir, hout]
  decide

/-- Settles O32: INIT's three primitives and its last statement, INIT_DONE. -/
theorem initResult : Obligations.InitResult := by
  intro s hu
  obtain ⟨u, hrun, hlast⟩ := exec_mainBlock (i := .init) (n := 2) hu rfl
  rw [show runOps (commandCode .init .main) s = _ from runOps_initCode s] at hlast
  exact ⟨u, _, hrun, hlast, rfl, linesWord_drivenLow rfl rfl rfl⟩

/-- Settles O35: STOP is STOP_SEQ, and its phase IDLE the last statement. -/
theorem stopResult : Obligations.StopResult := by
  intro s hu
  obtain ⟨u, hrun, hlast⟩ := exec_mainBlock (i := .stop) (n := 7) hu rfl
  rw [show runOps (commandCode .stop .main) s = _ from runOps_stopSeq s] at hlast
  exact ⟨u, _, hrun, hlast, rfl, add_le_add_right (ten_le_stopSeqTime s.draws) s.time,
    linesWord_drivenHigh rfl rfl rfl⟩

end Sys2Proof.Machine.Proofs
end

section
/-! O33, O34, O36. Start and stop conditions along a run of one block. A condition is read off SCL and the master's SDA
level alone, which every engine step makes as its primitive does. -/

namespace Sys2Proof.Machine.Proofs
open Sys2Proof.Machine.Laws Sys2Proof.Expected

/-! ### What is observed of a run -/

/-- What conditions and clock pulses are read off: SCL, the master's SDA level, and the trace (40_bit_sequencer.md
R149). -/
def observed (s : State) : Level × Level × List Event := (s.scl, sdaLevel s, s.trace)

/-- The states along a stretch of pseudocode, the first state included. -/
def opStates : List MicroOp → State → List State
  | [], s => [s]
  | op :: ops, s => s :: opStates ops (op.run s)

/-- The position is not observed. -/
theorem opStates_setUpc (ops : List MicroOp) (u : Upc) (s : State) :
    (opStates ops (setUpc u s)).map observed = (opStates ops s).map observed := by
  induction ops generalizing s with
  | nil => rfl
  | cons op ops ih => rw [opStates, opStates, op_setUpc, List.map_cons, List.map_cons, ih]; rfl

/-- After its primitive an engine step shows nothing more. -/
theorem exec_observed {i : Instr} {s t : State} {op : MicroOp} (hop : (commandCode i s.upc.block)[s.upc.pos]? = some op)
    (h : exec i s = .next t) : observed t = observed (op.run s) := by
  obtain ⟨op', hop', hcases⟩ := exec_cases h
  cases hop.symm.trans hop'
  rcases hcases with ⟨-, cs, rfl⟩ | ⟨b, rfl⟩ | rfl
  · simp [observed, sdaLevel, sdaMaster]
  · rfl
  · rfl

/-- Engine steps inside one block show what the block's primitives make. -/
theorem execStates_observed {i : Instr} {b : Block} {k : Nat} {s : State} {ops : List MicroOp}
    (hu : s.upc = { block := b, pos := k }) (h : ops <+: (commandCode i b).drop k) :
    (execStates i ops.length s).map observed = (opStates ops s).map observed := by
  induction ops generalizing k s with
  | nil => rfl
  | cons op ops ih =>
    obtain ⟨rest, hrest⟩ := h
    have hop : (commandCode i s.upc.block)[s.upc.pos]? = some op := by
      rw [hu, ← List.head?_drop, ← hrest]
      rfl
    have htail : (commandCode i b).drop (k + 1) = ops ++ rest := by
      rw [← List.tail_drop, ← hrest]
      rfl
    obtain ⟨t, ht⟩ := exec_isNext (i := i) (s := s) (decide_eq_true (List.getElem?_eq_some_iff.mp hop).1)
    rw [List.length_cons, execStates, ht, opStates, List.map_cons, List.map_cons]
    congr 1
    cases ops with
    | nil => exact congrArg (fun x => [x]) (exec_observed hop ht)
    | cons op' ops =>
      have hin : s.upc.pos + 1 ≠ (commandCode i s.upc.block).length := by
        have hlen := congrArg List.length htail
        simp only [List.length_drop, List.cons_append, List.length_cons] at hlen
        simp only [hu]
        omega
      obtain rfl : t = setUpc { block := b, pos := k + 1 } (op.run s) := by
        rw [exec_inside hop hin] at ht
        cases ht
        simp [advance, setUpc, hu]
      rw [ih rfl ⟨rest, htail.symm⟩, opStates_setUpc]

/-! ### Conditions -/

/-- A condition that is read off what is observed. -/
def ReadsObserved (cond : State → State → Bool) : Prop :=
  ∀ s s' t t', observed s = observed s' → observed t = observed t' → cond s t = cond s' t'

theorem readsObserved_start : ReadsObserved startCondition := by
  intro s s' t t' hs ht
  simp only [observed, Prod.mk.injEq] at hs ht
  simp [startCondition, hs, ht]

theorem readsObserved_stop : ReadsObserved stopCondition := by
  intro s s' t t' hs ht
  simp only [observed, Prod.mk.injEq] at hs ht
  simp [stopCondition, hs, ht]

theorem conditionsFrom_congr {cond : State → State → Bool} (hc : ReadsObserved cond) {n : Nat} {l l' : List State}
    (h : l.map observed = l'.map observed) : conditionsFrom cond n l = conditionsFrom cond n l' := by
  induction l generalizing n l' with
  | nil => rw [List.map_eq_nil_iff.mp h.symm]
  | cons s l ih =>
    obtain ⟨s', l', rfl, hs, hl⟩ := List.map_eq_cons_iff.mp h.symm
    cases l with
    | nil => rw [List.map_eq_nil_iff.mp hl]; rfl
    | cons t l =>
      obtain ⟨t', l'', rfl, ht, -⟩ := List.map_eq_cons_iff.mp hl
      rw [conditionsFrom, conditionsFrom, hc s s' t t' hs.symm ht.symm, ih hl.symm]

/-- The conditions of a run of one block are those of its primitives. -/
theorem conditions_execStates {cond : State → State → Bool} (hc : ReadsObserved cond) {i : Instr} {b : Block}
    {s : State} (hu : s.upc = { block := b, pos := 0 }) :
    conditionsFrom cond 0 (execStates i (commandCode i b).length s) =
      conditionsFrom cond 0 (opStates (commandCode i b) s) :=
  conditionsFrom_congr hc (execStates_observed hu (List.prefix_refl _))

/-- Statements in front of pseudocode are not observed. -/
theorem conditions_enter {cond : State → State → Bool} (hc : ReadsObserved cond) (cs : List Stmt) {ops : List MicroOp}
    (hne : ops ≠ []) (n : Nat) (s : State) :
    conditionsFrom cond n (opStates (enter cs ops) s) = conditionsFrom cond n (opStates ops (runStmts cs s)) := by
  refine conditionsFrom_congr hc ?_
  cases ops with
  | nil => exact absurd rfl hne
  | cons op ops =>
    have hs : observed s = observed (runStmts cs s) := by simp [observed, sdaLevel, sdaMaster]
    simp [enter, opStates, MicroOp.run, runStmts_append, hs]

/-- The conditions of a stretch of primitives are that of the first one and those of the rest. -/
@[simp] theorem conditions_prims_cons (cond : State → State → Bool) (n : Nat) (p : Prim) (ps : List Prim) (s : State) :
    conditionsFrom cond n (opStates (prims (p :: ps)) s) =
      (if cond s (p.perform s) then [n] else []) ++
        conditionsFrom cond (n + 1) (opStates (prims ps) (p.perform s)) := by
  cases ps <;> rfl

@[simp] theorem conditions_prims_nil (cond : State → State → Bool) (n : Nat) (s : State) :
    conditionsFrom cond n (opStates (prims []) s) = [] := rfl

/-! ### Each primitive's pins and conditions -/

/-- Where SDA keeps its level there is no condition. -/
theorem conditions_sdaKept {s t : State} (h : sdaLevel t = sdaLevel s) :
    startCondition s t = false ∧ stopCondition s t = false := by
  cases hs : sdaLevel s <;> simp [startCondition, stopCondition, h, hs]

@[simp] theorem pins_driveScl (v : Level) (s : State) :
    ((Prim.driveScl v).perform s).scl = v ∧ ((Prim.driveScl v).perform s).sdaDir = s.sdaDir ∧
      ((Prim.driveScl v).perform s).sdaOut = s.sdaOut := ⟨rfl, rfl, rfl⟩

@[simp] theorem conditions_driveScl (v : Level) (s : State) :
    startCondition s ((Prim.driveScl v).perform s) = false ∧ stopCondition s ((Prim.driveScl v).perform s) = false :=
  conditions_sdaKept rfl

@[simp] theorem pins_delay (d : Nat) (s : State) :
    ((Prim.delay d).perform s).scl = s.scl ∧ ((Prim.delay d).perform s).sdaDir = s.sdaDir ∧
      ((Prim.delay d).perform s).sdaOut = s.sdaOut := ⟨rfl, rfl, rfl⟩

@[simp] theorem conditions_delay (d : Nat) (s : State) :
    startCondition s ((Prim.delay d).perform s) = false ∧ stopCondition s ((Prim.delay d).perform s) = false :=
  conditions_sdaKept rfl

@[simp] theorem pins_dirOut (s : State) :
    ((Prim.setDir .output).perform s).scl = s.scl ∧ ((Prim.setDir .output).perform s).sdaDir = .output ∧
      ((Prim.setDir .output).perform s).sdaOut = s.sdaOut := ⟨rfl, rfl, rfl⟩

/-- `Dir(OUT)` cannot raise SDA, since a released SDA already counts HIGH; it lowers SDA where it was released with the
latch LOW (41_bus_conditions.md R176, 70_reset_and_hazards.md R305). -/
@[simp] theorem conditions_dirOut (s : State) :
    startCondition s ((Prim.setDir .output).perform s) =
        decide (s.scl = .high ∧ s.sdaDir = .input ∧ s.sdaOut = .low) ∧
      stopCondition s ((Prim.setDir .output).perform s) = false := by
  obtain ⟨hscl, hdir, hout⟩ := pins_dirOut s
  rw [Bool.eq_iff_iff]
  cases hd : s.sdaDir with
  | output => simpa [hd] using conditions_sdaKept (s := s) (by simp [sdaLevel, sdaMaster, hdir, hout, hd])
  | input => simp [startCondition, stopCondition, sdaLevel, sdaMaster, hscl, hdir, hout, hd]

@[simp] theorem pins_driveSda (v : Level) {s : State} (h : s.sdaDir = .output) :
    ((Prim.driveSda v).perform s).scl = s.scl ∧ ((Prim.driveSda v).perform s).sdaDir = .output ∧
      ((Prim.driveSda v).perform s).sdaOut = v := by
  rw [Prim.perform, setSda_output v s h]
  exact ⟨rfl, h, rfl⟩

/-- A driven SDA makes a condition where it changes its level with SCL HIGH (40_bit_sequencer.md R149). -/
@[simp] theorem conditions_driveSda (v : Level) {s : State} (h : s.sdaDir = .output) :
    startCondition s ((Prim.driveSda v).perform s) = decide (s.scl = .high ∧ s.sdaOut = .high ∧ v = .low) ∧
      stopCondition s ((Prim.driveSda v).perform s) = decide (s.scl = .high ∧ s.sdaOut = .low ∧ v = .high) := by
  obtain ⟨hscl, hdir, hout⟩ := pins_driveSda v h
  constructor <;> rw [Bool.eq_iff_iff] <;>
    simp [startCondition, stopCondition, sdaLevel, sdaMaster, hscl, hdir, hout, h, and_assoc]

/-! ### START_SEQ and STOP_SEQ -/

/-- START_SEQ's start condition is its event 4; `Dir(OUT)` is another where it finds SDA released with the latch LOW
(41_bus_conditions.md R172, 70_reset_and_hazards.md R305). -/
theorem startConditions_startSeq (s : State) :
    conditionsFrom startCondition 0 (opStates startSeq s) =
      (if s.scl = .high ∧ s.sdaDir = .input ∧ s.sdaOut = .low then [0] else []) ++ [4] := by
  simp [startSeq]

/-- START_SEQ makes a stop condition where its `Drive(SDA, HIGH)` finds the latch LOW (41_bus_conditions.md R173). -/
theorem stopConditions_startSeq (s : State) :
    conditionsFrom stopCondition 0 (opStates startSeq s) = if s.sdaOut = .low then [2] else [] := by
  simp [startSeq]

/-- STOP_SEQ's one stop condition: every other change of SDA in it is made with SCL LOW (41_bus_conditions.md R176). -/
theorem stopConditions_stopSeq (s : State) : conditionsFrom stopCondition 0 (opStates stopSeq s) = [6] := by
  rw [stopSeq, conditions_enter readsObserved_stop _ (by decide)]
  simp

/-! ### START -/

section Start
variable {s : State} (hu : s.upc = { block := .main, pos := 0 })
include hu

theorem startConditions_start :
    conditionsFrom startCondition 0 (execStates .start 6 s) =
      (if s.scl = .high ∧ s.sdaDir = .input ∧ s.sdaOut = .low then [0] else []) ++ [4] := by
  refine (conditions_execStates (i := .start) readsObserved_start hu).trans ?_
  exact (conditions_enter readsObserved_start [.phase .start] (by decide) 0 s).trans (startConditions_startSeq _)

theorem stopConditions_start :
    conditionsFrom stopCondition 0 (execStates .start 6 s) = if s.sdaOut = .low then [2] else [] := by
  refine (conditions_execStates (i := .start) readsObserved_stop hu).trans ?_
  exact (conditions_enter readsObserved_stop [.phase .start] (by decide) 0 s).trans (stopConditions_startSeq _)

end Start

/-- Settles O33: START is START_SEQ after its entry phase. -/
theorem startResult : Obligations.StartResult := by
  intro s hu
  refine ⟨?_, by simp [startConditions_start hu]⟩
  obtain ⟨u, hrun, hlast⟩ := exec_mainBlock (i := .start) (n := 5) hu rfl
  have hcode : runOps (commandCode .start .main) s = runOps startSeq (runStmts [.phase .start] s) :=
    runOps_enter (ops := startSeq) [.phase .start] (by decide) s
  rw [hcode, runOps_startSeq] at hlast
  have htime : (4 : Rat) ≤ 4 + (Config.excess s.draws : Rat) :=
    le_add_of_nonneg_right (Config.excess s.draws).coe_nonneg
  exact ⟨u, _, hrun, hlast, rfl, add_le_add_right htime s.time, linesWord_drivenLow rfl rfl rfl⟩

/-- Settles O34: none of the three pin states is the one where `Dir(OUT)` makes a start condition, and the latch decides
on the stop condition. -/
theorem startConditions : Obligations.StartConditions := by
  intro s hu
  rw [startConditions_start hu, stopConditions_start hu]
  refine ⟨fun hscl hsda hout => ?_, fun hscl hout => ?_, fun hscl hout => ?_⟩
  · simp [hout]
  · simp [hscl, hout]
  · simp [hout]

/-! ### Every STOP_SEQ -/

/-- Block `b` of command `i` is a STOP_SEQ, with which the command completes. -/
structure IsStopSeq (i : Instr) (b : Block) : Prop where
  code : ∃ cs, commandCode i b = enter cs stopSeq
  last : ∃ ds, commandLast i b = complete ds
  idle : ∀ s, (commandLast i b s).phase = .idle

theorem isStopSeq_stop : IsStopSeq .stop .main := ⟨⟨[], rfl⟩, ⟨_, rfl⟩, fun _ => rfl⟩

theorem isStopSeq_waitAck : IsStopSeq .waitAck (.timeout .address) :=
  ⟨⟨[.countPoll], rfl⟩, ⟨_, rfl⟩, fun _ => rfl⟩

theorem isStopSeq_writeTxn (a : Addr7) (len : Len) (f : Frame) {b : Block} (hb : b = .timeout f ∨ b = .close f) :
    IsStopSeq (.writeTxn a len) b := by
  rcases hb with rfl | rfl
  · exact ⟨⟨[.countPoll], rfl⟩, ⟨_, rfl⟩, fun _ => by cases f <;> rfl⟩
  · exact ⟨⟨[.ackResult .acked, idxStmt f], rfl⟩, ⟨_, rfl⟩, fun _ => rfl⟩

theorem IsStopSeq.length {i : Instr} {b : Block} (h : IsStopSeq i b) : (commandCode i b).length = 8 := by
  obtain ⟨cs, hcode⟩ := h.code
  rw [hcode]
  rfl

theorem IsStopSeq.stopConditions {i : Instr} {b : Block} (h : IsStopSeq i b) {s : State}
    (hu : s.upc = { block := b, pos := 0 }) : conditionsFrom stopCondition 0 (execStates i 8 s) = [6] := by
  obtain ⟨cs, hcode⟩ := h.code
  rw [← h.length, conditions_execStates readsObserved_stop hu, hcode,
    conditions_enter readsObserved_stop cs (by decide), stopConditions_stopSeq]

theorem IsStopSeq.stopped {i : Instr} {b : Block} (h : IsStopSeq i b) (s : State) :
    Stopped (commandLast i b (blockEnd i b s)) := by
  obtain ⟨cs, hcode⟩ := h.code
  obtain ⟨ds, hlast⟩ := h.last
  have hpins : (blockEnd i b s).scl = .high ∧ (blockEnd i b s).sdaDir = .output ∧ (blockEnd i b s).sdaOut = .high := by
    rw [blockEnd, hcode, runOps_enter cs (by decide), runOps_stopSeq]
    exact ⟨rfl, rfl, rfl⟩
  refine ⟨?_, ?_, ?_, h.idle _⟩ <;> simp [hlast, hpins]

theorem busIdle_of_stopped {t : State} (h : Stopped t) : busIdle t = true := by
  obtain ⟨hscl, hdir, hout, -⟩ := h
  simp [busIdle, sdaLevel, sdaMaster, hscl, hdir, hout]

/-- Settles O36: each of these blocks is the eight primitives of STOP_SEQ. -/
theorem everyStopSeqStopsTheBus : Obligations.EveryStopSeqStopsTheBus := by
  intro i b s hu hib
  have h : IsStopSeq i b := by
    rcases hib with ⟨rfl, rfl⟩ | ⟨rfl, rfl⟩ | ⟨a, len, f, rfl, hb⟩
    · exact isStopSeq_stop
    · exact isStopSeq_waitAck
    · exact isStopSeq_writeTxn a len f hb
  have hrun := execN_block (i := i) hu (by rw [h.length]; decide)
  obtain ⟨ds, hlast⟩ := h.last
  rw [h.length] at hrun
  exact ⟨_, hrun, h.stopped s, by rw [hlast, complete_busy], busIdle_of_stopped (h.stopped s), h.stopConditions hu⟩

end Sys2Proof.Machine.Proofs
end

section
/-! O30. What the steps of WAIT_ACK, READ_BYTE and WRITE_TXN leave alone: a part of the state that none of a command's
statements writes is kept by every step of it. -/

namespace Sys2Proof.Machine.Proofs
open Sys2Proof.Machine.Laws

/-- A part `f` of the state that neither the statements `ok` nor a primitive writes is kept by every step of a command
with no other statements, if what follows its blocks keeps it too. -/
theorem exec_keepsPart {α : Type} {f : State → α} {i : Instr} {ok : Stmt → Bool}
    (hstmt : ∀ c s, ok c = true → f (c.run s) = f s) (hprim : ∀ (p : Prim) s, f (p.perform s) = f s)
    (hcode : ∀ b, (commandCode i b).all (fun op => op.before.all ok) = true)
    (hadvance : ∀ s, f (advance s) = f s) (hlast : ∀ b s, f (commandLast i b s) = f s)
    {s t : State} (h : exec i s = .next t) : f t = f s := by
  obtain ⟨op, hop, hcases⟩ := exec_next h
  have hbefore (cs : List Stmt) (hcs : cs.all ok = true) (u : State) : f (runStmts cs u) = f u := by
    induction cs generalizing u with
    | nil => rfl
    | cons c cs ih =>
      obtain ⟨hc, hcs⟩ : ok c = true ∧ cs.all ok = true := by simpa using hcs
      rw [runStmts_cons, ih hcs, hstmt c u hc]
  have hrun : f (op.run s) = f s := by
    rw [MicroOp.run, hprim, hbefore _ (List.all_eq_true.mp (hcode _) op (List.mem_of_getElem? hop))]
  rcases hcases with ⟨-, rfl⟩ | ⟨-, rfl⟩
  · rw [hlast, hrun]
  · rw [hadvance, hrun]

theorem afterSample_keepsPart {α : Type} {g : State → α} (hgoto : ∀ b s, g (goto b s) = g s) (f : Frame) (s : State) :
    g (afterSample f s) = g s := by
  obtain ⟨b, hg, -⟩ := afterSample_goto f s
  rw [hg, hgoto]

theorem nextFrame_keepsPart {α : Type} {g : State → α} (hgoto : ∀ b s, g (goto b s) = g s) (len : Len) (f : Frame)
    (s : State) : g (nextFrame len f s) = g s := by
  obtain ⟨b, hg, -⟩ := nextFrame_goto len f s
  rw [hg, hgoto]

/-! ### WAIT_ACK -/

/-- What WAIT_ACK leaves alone (42_transmit.md R198). -/
def outsideWaitAck (s : State) :=
  (s.initDone, s.txnStatus, s.txnIndex, s.rxdata, s.shift, s.acc, s.idx)

/-- WAIT_ACK's statements (42_transmit.md R197). -/
def waitAckStmt : Stmt → Bool
  | .phase _ | .clearPolls | .countPoll | .ackResult _ => true
  | .initDone | .loadShift _ | .loadPayload | .clearAcc | .insertAcc _ | .storeRxdata | .clearIdx | .countIdx
  | .txnStatus _ | .txnNoAckData => false

theorem outsideWaitAck_stmt (c : Stmt) (s : State) (h : waitAckStmt c = true) :
    outsideWaitAck (c.run s) = outsideWaitAck s := by
  cases c with
  | phase | clearPolls | countPoll | ackResult => rfl
  | initDone | loadShift | loadPayload | clearAcc | insertAcc | storeRxdata | clearIdx | countIdx | txnStatus
  | txnNoAckData => cases h

theorem outsideWaitAck_last (b : Block) (s : State) : outsideWaitAck (waitAckLast b s) = outsideWaitAck s := by
  cases b with
  | main | poll => exact afterSample_keepsPart (fun _ _ => rfl) .address s
  | acked | timeout | payload | close => rfl

theorem exec_outsideWaitAck {s t : State} (h : exec .waitAck s = .next t) : outsideWaitAck t = outsideWaitAck s := by
  refine exec_keepsPart (i := .waitAck) outsideWaitAck_stmt (fun p s => by simp [outsideWaitAck])
    (fun b => ?_) (fun _ => rfl) outsideWaitAck_last h
  cases b with
  | main => rfl
  | poll f | acked f | timeout f | payload f | close f => cases f <;> rfl

/-! ### READ_BYTE -/

/-- What READ_BYTE leaves alone (43_receive.md R224). -/
def outsideReadByte (s : State) :=
  (s.initDone, s.ackResult, s.pollCount, s.txnStatus, s.txnIndex, s.shift, s.polls, s.idx)

/-- READ_BYTE's statements (43_receive.md R223, R224). -/
def readByteStmt : Stmt → Bool
  | .phase _ | .clearAcc | .insertAcc _ | .storeRxdata => true
  | .initDone | .loadShift _ | .loadPayload | .clearPolls | .countPoll | .ackResult _ | .clearIdx | .countIdx
  | .txnStatus _ | .txnNoAckData => false

theorem outsideReadByte_stmt (c : Stmt) (s : State) (h : readByteStmt c = true) :
    outsideReadByte (c.run s) = outsideReadByte s := by
  cases c with
  | phase | clearAcc | insertAcc | storeRxdata => rfl
  | initDone | loadShift | loadPayload | clearPolls | countPoll | ackResult | clearIdx | countIdx | txnStatus
  | txnNoAckData => cases h

theorem exec_outsideReadByte {s t : State} (h : exec .readByte s = .next t) :
    outsideReadByte t = outsideReadByte s := by
  refine exec_keepsPart (i := .readByte) outsideReadByte_stmt (fun p s => by simp [outsideReadByte])
    (fun b => ?_) (fun _ => rfl) (fun _ _ => rfl) h
  cases b <;> rfl

/-! ### WRITE_TXN -/

/-- What WRITE_TXN leaves alone (44_transaction.md R240). -/
def outsideWriteTxn (s : State) := (s.initDone, s.rxdata, s.acc)

/-- Statements that write neither INIT_DONE nor the receive path. -/
def writeTxnStmt : Stmt → Bool
  | .phase _ | .loadShift _ | .loadPayload | .clearPolls | .countPoll | .ackResult _ | .clearIdx | .countIdx
  | .txnStatus _ | .txnNoAckData => true
  | .initDone | .clearAcc | .insertAcc _ | .storeRxdata => false

theorem outsideWriteTxn_stmt (c : Stmt) (s : State) (h : writeTxnStmt c = true) :
    outsideWriteTxn (c.run s) = outsideWriteTxn s := by
  cases c with
  | phase | loadShift | loadPayload | clearPolls | countPoll | ackResult | clearIdx | countIdx | txnStatus
  | txnNoAckData => rfl
  | initDone | clearAcc | insertAcc | storeRxdata => cases h

theorem outsideWriteTxn_last (len : Len) (b : Block) (s : State) :
    outsideWriteTxn (writeTxnLast len b s) = outsideWriteTxn s := by
  have hsample (f : Frame) : outsideWriteTxn (afterSample f s) = outsideWriteTxn s :=
    afterSample_keepsPart (fun _ _ => rfl) f s
  cases b with
  | main => exact hsample .address
  | poll f => exact hsample f
  | payload => exact hsample .payload
  | acked f => exact nextFrame_keepsPart (fun _ _ => rfl) len f s
  | timeout f => cases f <;> rfl
  | close => rfl

theorem exec_outsideWriteTxn {a : Addr7} {len : Len} {s t : State} (h : exec (.writeTxn a len) s = .next t) :
    outsideWriteTxn t = outsideWriteTxn s := by
  refine exec_keepsPart (i := .writeTxn a len) outsideWriteTxn_stmt (fun p s => by simp [outsideWriteTxn])
    (fun b => ?_) (fun _ => rfl) (outsideWriteTxn_last len) h
  cases b with
  | main | poll | acked | timeout => rfl
  | payload f | close f => cases f <;> rfl

/-- Settles O30: none of the statements of these commands writes what the command leaves alone. -/
theorem waitReadTransactionFrame : Obligations.WaitReadTransactionFrame := by
  intro s t
  refine ⟨fun h => ?_, fun h => ?_, fun a len h => ?_⟩
  · simpa only [outsideWaitAck, Prod.mk.injEq] using exec_outsideWaitAck h
  · simpa only [outsideReadByte, Prod.mk.injEq] using exec_outsideReadByte h
  · simpa only [outsideWriteTxn, Prod.mk.injEq] using exec_outsideWriteTxn h

end Sys2Proof.Machine.Proofs
end

section
/-! O37, O38. SEND_ADDR and SEND_BYTE from start to end: each is one SHIFT_OUT, eight bits between `Dir(OUT)` and
`Drive(SDA, HIGH)` (42_transmit.md R192). -/

namespace Sys2Proof.Machine.Proofs
open Sys2Proof.Machine.Laws Sys2Proof.Expected

theorem prims_append (ps qs : List Prim) : prims (ps ++ qs) = prims ps ++ prims qs := List.map_append

/-- The bits of SHIFT_OUT, `Drive(SDA, HIGH)` after them (42_transmit.md R192). -/
def shiftTail (bits : List Nat) : List Prim := bits.flatMap shiftOutBit ++ [.driveSda .high]

/-- SHIFT_OUT without the load of `s.shift` (42_transmit.md R192). -/
def shiftBody : List MicroOp := prims (.setDir .output :: shiftTail (List.range 8))

theorem shiftOut_eq (load : Stmt) : shiftOut load = enter [load] shiftBody := rfl

/-- The events of bit `i` (42_transmit.md R192). -/
def bitTrace (v : Byte) (i : Nat) : List Event := [.sda (bit v i), .delay 2, .scl .high, .delay 2, .scl .low]

theorem shiftTrace_eq (v : Byte) :
    shiftTrace v = .dir .output :: ((List.range 8).flatMap (bitTrace v) ++ [.sda .high]) := rfl

/-- The two delays of a bit begun at the `n`-th draw (42_transmit.md R192). -/
def bitTime (n : Nat) : Rat := (2 + (Config.excess n : Rat)) + (2 + (Config.excess (n + 1) : Rat))

theorem four_le_bitTime (n : Nat) : 4 ≤ bitTime n := by
  have (k : Nat) : (0 : Rat) ≤ (Config.excess k : Rat) := (Config.excess k).coe_nonneg
  unfold bitTime
  linarith [this n, this (n + 1)]

theorem busBit_eq_bit (v : Byte) (i : Nat) : busBit v i = bit v i := rfl

/-- One bit of SHIFT_OUT, with SDA driven (42_transmit.md R192). -/
theorem runOps_shiftOutBit (i : Nat) {s : State} (hd : s.sdaDir = .output) :
    runOps (prims (shiftOutBit i)) s = { s with
      scl := .low, sdaOut := bit s.shift i, trace := s.trace ++ bitTrace s.shift i
      time := s.time + bitTime s.draws, draws := s.draws + 2 } := by
  simp [shiftOutBit, prims, MicroOp.run, Prim.perform, setSda_output _ s hd, setScl, waitFor, State.emit, State.elapse,
    State.drawn, busBit_eq_bit, bitTrace, bitTime, Config.tShort, add_assoc]

/-- A stretch of bits and the `Drive(SDA, HIGH)` after them: each bit takes 4 microseconds or more, and the last of them
leaves SCL LOW (42_transmit.md R192). -/
theorem runOps_shiftTail (bits : List Nat) {s : State} (hd : s.sdaDir = .output) :
    ∃ t, runOps (prims (shiftTail bits)) s = t ∧
      t = { s with
        scl := if bits = [] then s.scl else .low, sdaOut := .high
        trace := s.trace ++ (bits.flatMap (bitTrace s.shift) ++ [.sda .high]), time := t.time, draws := t.draws } ∧
      s.time + ((4 * bits.length : Nat) : Rat) ≤ t.time := by
  induction bits generalizing s with
  | nil =>
    refine ⟨_, rfl, ?_⟩
    simp [shiftTail, prims, MicroOp.run, Prim.perform, setSda_output _ s hd, State.emit]
  | cons i bits ih =>
    have hsplit : shiftTail (i :: bits) = shiftOutBit i ++ shiftTail bits := rfl
    obtain ⟨t, hrun, ht, htime⟩ :=
      ih (s := runOps (prims (shiftOutBit i)) s) (by rw [runOps_shiftOutBit i hd]; exact hd)
    rw [runOps_shiftOutBit i hd] at ht htime
    refine ⟨t, by rw [hsplit, prims_append, runOps_append, hrun], ?_, ?_⟩
    · rw [ht]
      simp
    · have := four_le_bitTime s.draws
      push_cast [List.length_cons] at htime ⊢
      linarith

/-- SHIFT_OUT once `s.shift` is loaded, from every state (42_transmit.md R192). -/
theorem runOps_shiftBody (s : State) :
    ∃ t, runOps shiftBody s = t ∧
      t = { s with
        sdaDir := .output, scl := .low, sdaOut := .high, trace := s.trace ++ shiftTrace s.shift
        time := t.time, draws := t.draws } ∧
      s.time + 32 ≤ t.time := by
  have hrange : List.range 8 ≠ [] := by simp
  have hbody : shiftBody = { before := [], prim := .setDir .output } :: prims (shiftTail (List.range 8)) := rfl
  obtain ⟨t, hrun, ht, htime⟩ := runOps_shiftTail (List.range 8) (s := setSdaDir .output s) rfl
  rw [List.length_range] at htime
  refine ⟨t, by rw [hbody, runOps_cons]; exact hrun, ?_, by simpa [setSdaDir] using htime⟩
  rw [ht, shiftTrace_eq, if_neg hrange]
  simp only [setSdaDir, State.emit, List.append_assoc, List.singleton_append]

/-- A command that is one SHIFT_OUT after the statements `cs` (42_transmit.md R193, R194). -/
theorem exec_shiftOut {i : Instr} {cs : List Stmt} {s : State} (hu : s.upc = { block := .main, pos := 0 })
    (hcode : commandCode i .main = enter cs shiftBody) (hlast : commandLast i .main = complete []) :
    ∃ u t, execN i 41 s = .next u ∧ exec i u = .next t ∧
      t = { runStmts cs s with
        sdaDir := .output, scl := .low, sdaOut := .high, busy := false, upc := t.upc
        trace := s.trace ++ shiftTrace (runStmts cs s).shift, time := t.time, draws := t.draws } ∧
      s.time + 32 ≤ t.time := by
  obtain ⟨u, hrun, hend⟩ := exec_mainBlock (i := i) (n := 41) hu (by rw [hcode]; rfl)
  obtain ⟨t, hbody, ht, htime⟩ := runOps_shiftBody (runStmts cs s)
  rw [hcode, hlast, runOps_enter cs (by decide), hbody] at hend
  refine ⟨u, _, hrun, hend, ?_, by simpa [setUpc] using htime⟩
  rw [ht]
  simp [complete, setUpc]

/-- Settles O37: SEND_ADDR is SHIFT_OUT of its address frame. -/
theorem sendAddrResult : Obligations.SendAddrResult := by
  intro a rw s hu
  rw [← addressFrame_eq_append]
  exact exec_shiftOut (cs := [.phase .address, .loadShift (addressFrame a rw)]) hu rfl rfl

/-- Settles O38: SEND_BYTE is SHIFT_OUT of its byte. -/
theorem sendByteResult : Obligations.SendByteResult := by
  intro d s hu
  exact exec_shiftOut (cs := [.phase .data, .loadShift d]) hu rfl rfl

end Sys2Proof.Machine.Proofs
end

section
/-! O39. What SHIFT_OUT shows on the wire from SCL LOW: a clock pulse a bit, and no condition (42_transmit.md R195). -/

namespace Sys2Proof.Machine.Proofs
open Sys2Proof.Machine.Laws Sys2Proof.Expected

/-! ### Wire events of a run of one block -/

theorem wireEvents_congr {l l' : List State} (h : l.map observed = l'.map observed) : wireEvents l = wireEvents l' := by
  induction l generalizing l' with
  | nil => rw [List.map_eq_nil_iff.mp h.symm]
  | cons s l ih =>
    obtain ⟨s', l', rfl, hs, hl⟩ := List.map_eq_cons_iff.mp h.symm
    cases l with
    | nil => rw [List.map_eq_nil_iff.mp hl]; rfl
    | cons t l =>
      obtain ⟨t', l'', rfl, ht, -⟩ := List.map_eq_cons_iff.mp hl
      rw [wireEvents, wireEvents, ih hl.symm]
      simp only [observed, Prod.mk.injEq] at hs ht
      simp [wireEvent, hs, ht]

/-- The event of the first primitive of a stretch, and those of the rest. -/
@[simp] theorem wireEvents_prims_cons (p : Prim) (ps : List Prim) (s : State) :
    wireEvents (opStates (prims (p :: ps)) s) =
      (wireEvent s (p.perform s)).toList ++ wireEvents (opStates (prims ps) (p.perform s)) := by
  cases ps <;> rfl

@[simp] theorem wireEvents_prims_nil (s : State) : wireEvents (opStates (prims []) s) = [] := rfl

theorem sdaLevel_driven {s : State} (h : s.sdaDir = .output) : sdaLevel s = s.sdaOut := by
  simp [sdaLevel, sdaMaster, h]

theorem sdaLevel_released {s : State} (h : s.sdaDir = .input) : sdaLevel s = .high := by
  simp [sdaLevel, sdaMaster, h]

@[simp] theorem wireEvent_driveScl (v : Level) (s : State) :
    wireEvent s ((Prim.driveScl v).perform s) = some { event := .scl v, sclBefore := s.scl, line := sdaLevel s } := by
  simp [wireEvent, Prim.perform, setScl, sdaLevel, sdaMaster]

@[simp] theorem wireEvent_delay (d : Nat) (s : State) :
    wireEvent s ((Prim.delay d).perform s) = some { event := .delay d, sclBefore := s.scl, line := sdaLevel s } := by
  simp [wireEvent, Prim.perform, waitFor, sdaLevel, sdaMaster]

@[simp] theorem wireEvent_driveSda (v : Level) {s : State} (h : s.sdaDir = .output) :
    wireEvent s ((Prim.driveSda v).perform s) = some { event := .sda v, sclBefore := s.scl, line := v } := by
  simp [wireEvent, Prim.perform, setSda_output v s h, sdaLevel, sdaMaster, h]

@[simp] theorem wireEvent_dirOut (s : State) :
    wireEvent s ((Prim.setDir .output).perform s) =
      some { event := .dir .output, sclBefore := s.scl, line := s.sdaOut } := by
  simp [wireEvent, Prim.perform, setSdaDir, sdaLevel, sdaMaster]

theorem driveSdaBit_perform (i : Nat) (s : State) :
    (Prim.driveSdaBit i).perform s = (Prim.driveSda (bit s.shift i)).perform s := rfl

theorem runOps_prims_cons (p : Prim) (ps : List Prim) (s : State) :
    runOps (prims (p :: ps)) s = runOps (prims ps) (p.perform s) := rfl

theorem runOps_prims_nil (s : State) : runOps (prims []) s = s := rfl

/-! ### The wire of SHIFT_OUT -/

/-- The states `l` show a clock pulse for each bit of `bits`, held steady, and no condition (42_transmit.md R195). -/
def Framed (bits : List Level) (l : List State) : Prop :=
  clockPulses l = bits.map (fun b => { bit := b, steady := true }) ∧
    ∀ n, conditionsFrom startCondition n l = [] ∧ conditionsFrom stopCondition n l = []

theorem Framed.congr {bits : List Level} {l l' : List State} (h : Framed bits l)
    (hl : l'.map observed = l.map observed) : Framed bits l' := by
  obtain ⟨hpulses, hconds⟩ := h
  refine ⟨by rw [clockPulses, wireEvents_congr hl]; exact hpulses, fun n => ?_⟩
  rw [conditionsFrom_congr readsObserved_start hl, conditionsFrom_congr readsObserved_stop hl]
  exact hconds n

/-- Statements in front of pseudocode are not observed along it. -/
theorem observed_enter (cs : List Stmt) {ops : List MicroOp} (hne : ops ≠ []) (s : State) :
    (opStates (enter cs ops) s).map observed = (opStates ops (runStmts cs s)).map observed := by
  cases ops with
  | nil => exact absurd rfl hne
  | cons op ops => simp [enter, opStates, MicroOp.run, runStmts_append, observed, sdaLevel, sdaMaster]

/-- A bit sent from SCL LOW is one pulse, and changes SDA only while SCL is LOW. -/
theorem framed_shiftOutBit (i : Nat) {ps : List Prim} {bits : List Level} {s : State} (hd : s.sdaDir = .output)
    (hl : s.scl = .low) (h : Framed bits (opStates (prims ps) (runOps (prims (shiftOutBit i)) s))) :
    Framed (bit s.shift i :: bits) (opStates (prims (shiftOutBit i ++ ps)) s) := by
  obtain ⟨hpulses, hconds⟩ := h
  simp only [shiftOutBit, runOps_prims_cons, runOps_prims_nil, driveSdaBit_perform] at hpulses hconds
  constructor
  · rw [clockPulses] at hpulses ⊢
    simp [shiftOutBit, driveSdaBit_perform, hd, hl, sdaLevel_driven, pulsesFrom, hpulses]
  · intro n
    simp [shiftOutBit, driveSdaBit_perform, hd, hl, hconds]

theorem framed_shiftTail (bits : List Nat) {s : State} (hd : s.sdaDir = .output) (hl : s.scl = .low) :
    Framed (bits.map (bit s.shift)) (opStates (prims (shiftTail bits)) s) := by
  induction bits generalizing s with
  | nil =>
    constructor
    · simp [shiftTail, clockPulses, hd, pulsesFrom]
    · simp [shiftTail, hd, hl]
  | cons i bits ih =>
    have hbit := runOps_shiftOutBit i hd
    have h := ih (s := runOps (prims (shiftOutBit i)) s) (by rw [hbit]; exact hd) (by rw [hbit])
    rw [show (runOps (prims (shiftOutBit i)) s).shift = s.shift by rw [hbit]] at h
    exact framed_shiftOutBit i hd hl h

/-- `Dir(OUT)` with SCL LOW makes no condition and belongs to no pulse. -/
theorem framed_shiftBody {s : State} (hl : s.scl = .low) :
    Framed ((List.range 8).map (bit s.shift)) (opStates shiftBody s) := by
  obtain ⟨hpulses, hconds⟩ := framed_shiftTail (List.range 8) (s := (Prim.setDir .output).perform s) rfl hl
  constructor
  · rw [shiftBody, clockPulses, wireEvents_prims_cons, wireEvent_dirOut]
    exact hpulses
  · intro n
    simpa [shiftBody, hl] using hconds (n + 1)

/-- A stretch of a command's pseudocode that is SHIFT_OUT after the statements `cs`, from SCL LOW. -/
theorem framed_execStates {i : Instr} {b : Block} {k : Nat} {cs : List Stmt} {s : State}
    (hu : s.upc = { block := b, pos := k }) (hl : s.scl = .low)
    (hcode : enter cs shiftBody <+: (commandCode i b).drop k) :
    Framed ((List.range 8).map (bit (runStmts cs s).shift)) (execStates i 42 s) := by
  have hlength : (enter cs shiftBody).length = 42 := by rw [enter_length]; rfl
  have hobserved := execStates_observed hu hcode
  rw [hlength] at hobserved
  have hframed := framed_shiftBody (s := runStmts cs s) ((runStmts_scl cs s).trans hl)
  exact (hframed.congr (observed_enter cs (by decide) s)).congr hobserved

/-- Settles O39: at each of these places the command's next 42 primitives are SHIFT_OUT, with the statements before it
that load `s.shift`. -/
theorem byteFraming : Obligations.ByteFraming := by
  intro s i v hl hplace
  have hframed : Framed ((List.range 8).map (bit v)) (execStates i 42 s) := by
    rcases hplace with ⟨rfl, hu⟩ | ⟨a, rw, rfl, rfl, hu⟩ | ⟨a, len, rfl, rfl, hu⟩ | ⟨a, len, rfl, rfl, hu⟩ |
      ⟨a, len, rfl, rfl, hu⟩
    · exact framed_execStates (cs := [.phase .data, .loadShift v]) hu hl (List.prefix_refl _)
    · rw [← addressFrame_eq_append]
      exact framed_execStates (cs := [.phase .address, .loadShift (addressFrame a rw)]) hu hl (List.prefix_refl _)
    · rw [show a ++ 0#1 = addressFrame a .write from (addressFrame_eq_append a .write).symm]
      exact framed_execStates (cs := [.phase .address, .loadShift (addressFrame a .write)]) hu hl ⟨waitSeq, rfl⟩
    · exact framed_execStates (cs := [.ackResult .acked, .clearIdx, .phase .data, .loadPayload]) hu hl ⟨waitSeq, rfl⟩
    · exact framed_execStates (cs := [.ackResult .acked, .countIdx, .phase .data, .loadPayload]) hu hl ⟨waitSeq, rfl⟩
  obtain ⟨hpulses, hconds⟩ := hframed
  rw [List.map_map] at hpulses
  exact ⟨hpulses, hconds 0⟩

end Sys2Proof.Machine.Proofs
end

section
/-! O44. The first five events of WAIT_ACK, by the pin state it finds (42_transmit.md R196,
70_reset_and_hazards.md R303, R305). -/

namespace Sys2Proof.Machine.Proofs
open Sys2Proof.Machine.Laws Sys2Proof.Expected

/-! ### The released SDA -/

@[simp] theorem pins_driveSda_released (v : Level) {s : State} (h : s.sdaDir = .input) :
    ((Prim.driveSda v).perform s).scl = s.scl ∧ ((Prim.driveSda v).perform s).sdaDir = .input := by
  rw [Prim.perform, setSda_input v s h]
  exact ⟨rfl, h⟩

/-- A write that SDA as an input ignores leaves the wire alone (40_bit_sequencer.md R144). -/
@[simp] theorem conditions_driveSda_released (v : Level) {s : State} (h : s.sdaDir = .input) :
    startCondition s ((Prim.driveSda v).perform s) = false ∧ stopCondition s ((Prim.driveSda v).perform s) = false :=
  conditions_sdaKept (by rw [sdaLevel_released h, sdaLevel_released (pins_driveSda_released v h).2])

@[simp] theorem wireEvent_driveSda_released (v : Level) {s : State} (h : s.sdaDir = .input) :
    wireEvent s ((Prim.driveSda v).perform s) = some { event := .sdaIgnored v, sclBefore := s.scl, line := .high } := by
  simp [wireEvent, Prim.perform, setSda_input v s h, sdaLevel, sdaMaster, h]

/-- `Dir(IN)` cannot lower SDA; it raises SDA where it was driven LOW (40_bit_sequencer.md R149). -/
@[simp] theorem conditions_dirIn (s : State) :
    startCondition s ((Prim.setDir .input).perform s) = false ∧
      stopCondition s ((Prim.setDir .input).perform s) =
        decide (s.scl = .high ∧ s.sdaDir = .output ∧ s.sdaOut = .low) := by
  have hlevel : sdaLevel ((Prim.setDir .input).perform s) = .high := rfl
  have hscl : ((Prim.setDir .input).perform s).scl = s.scl := rfl
  constructor
  · simp [startCondition, hlevel]
  · rw [stopCondition, hlevel, hscl, Bool.eq_iff_iff]
    cases hd : s.sdaDir with
    | output => simp [sdaLevel_driven hd]
    | input => simp [sdaLevel_released hd]

/-! ### The head of a wait -/

/-- WAIT_SEQ's primitives before its first Sample (42_transmit.md R197). -/
def waitHeadPrims : List Prim :=
  [.driveScl .high, .delay Config.tShort, .driveSda .high, .delay Config.tShort, .setDir .input]

theorem waitSeq_eq : waitSeq = enter [.phase .ackWait] (prims waitHeadPrims) ++ [firstSample] := rfl

/-- SDA only rises in the head of a wait. -/
theorem startConditions_waitHead (s : State) :
    conditionsFrom startCondition 0 (opStates (prims waitHeadPrims) s) = [] := by
  cases hd : s.sdaDir with
  | output => simp [waitHeadPrims, hd]
  | input => simp [waitHeadPrims, hd]

/-- The write of HIGH raises SDA where it is driven LOW; a released SDA ignores it (70_reset_and_hazards.md R303,
R305). -/
theorem stopConditions_waitHead (s : State) :
    conditionsFrom stopCondition 0 (opStates (prims waitHeadPrims) s) =
      if s.sdaDir = .output ∧ s.sdaOut = .low then [2] else [] := by
  cases hd : s.sdaDir with
  | output => simp [waitHeadPrims, hd]
  | input => simp [waitHeadPrims, hd]

section Head
variable {s : State} (hu : s.upc = { block := .main, pos := 0 })
include hu

/-- The first five engine steps of WAIT_ACK show the head of its wait. -/
theorem observed_waitHead :
    (execStates .waitAck 5 s).map observed =
      (opStates (prims waitHeadPrims) (runStmts [.phase .ackWait] s)).map observed :=
  (execStates_observed (ops := enter [.phase .ackWait] (prims waitHeadPrims)) hu ⟨_, waitSeq_eq.symm⟩).trans
    (observed_enter _ (by decide) s)

theorem startConditions_waitAckHead : conditionsFrom startCondition 0 (execStates .waitAck 5 s) = [] :=
  (conditionsFrom_congr readsObserved_start (observed_waitHead hu)).trans (startConditions_waitHead _)

theorem stopConditions_waitAckHead :
    conditionsFrom stopCondition 0 (execStates .waitAck 5 s) =
      if s.sdaDir = .output ∧ s.sdaOut = .low then [2] else [] :=
  (conditionsFrom_congr readsObserved_stop (observed_waitHead hu)).trans (stopConditions_waitHead _)

/-- The SCL edge carries the level that the command finds on SDA. -/
theorem wireEvents_waitAckHead_head :
    (wireEvents (execStates .waitAck 5 s)).head? =
      some { event := .scl .high, sclBefore := s.scl, line := sdaLevel s } := by
  rw [wireEvents_congr (observed_waitHead hu), waitHeadPrims, wireEvents_prims_cons, wireEvent_driveScl]
  rfl

theorem wireEvents_waitAckHead_ignored (hd : s.sdaDir = .input) :
    (wireEvents (execStates .waitAck 5 s))[2]? =
      some { event := .sdaIgnored .high, sclBefore := .high, line := .high } := by
  rw [wireEvents_congr (observed_waitHead hu)]
  simp [waitHeadPrims, hd]

end Head

/-- Settles O44: the head of the wait raises SDA, if at all, with its one write of it, which is event 2. -/
theorem waitAckEntryStates : Obligations.WaitAckEntryStates := by
  intro s hu
  rw [startConditions_waitAckHead hu, stopConditions_waitAckHead hu, wireEvents_waitAckHead_head hu]
  refine ⟨rfl, fun hscl hdir hout => ?_, fun hscl hdir hout => ?_, fun hscl hdir hout => ?_, fun hdir => ?_⟩
  · simp [hscl, hout, sdaLevel_driven hdir]
  · simp [hscl, hdir, hout, sdaLevel_driven hdir]
  · simp [hscl, hout, sdaLevel_driven hdir]
  · simp [hdir, wireEvents_waitAckHead_ignored hu hdir]

end Sys2Proof.Machine.Proofs
end

section
/-! The wait for an acknowledgment: its head, its samples, and the decision they lead to (42_transmit.md R197, R200). -/

namespace Sys2Proof.Machine.Proofs
open Sys2Proof.Machine.Laws Sys2Proof.Expected

/-! ### The head -/

/-- `w` is `s` as WAIT_SEQ's head leaves it, no sample counted yet (42_transmit.md R197). -/
structure WaitBegun (s w : State) : Prop where
  state : w = { s with
    phase := .ackWait, scl := .high, sdaDir := .input, sdaOut := w.sdaOut, polls := 0#8
    trace := s.trace ++ waitHead (driveHighEvent s), time := w.time, draws := w.draws }
  latch : s.sdaDir = .output → w.sdaOut = .high
  time : s.time + 4 ≤ w.time

/-- `Drive(SDA, HIGH)` (40_bit_sequencer.md R144). -/
theorem setSda_high (s : State) :
    ∃ o d, setSda .high s = { s with sdaOut := o, trace := s.trace ++ [driveHighEvent s], draws := d } ∧
      (s.sdaDir = .output → o = .high) := by
  cases hd : s.sdaDir with
  | output => exact ⟨.high, s.draws, by simp [setSda_output _ s hd, State.emit, driveHighEvent, hd], fun _ => rfl⟩
  | input => exact ⟨Config.drawLevel s.draws, s.draws + 1,
    by simp [setSda_input _ s hd, State.emit, State.drawn, driveHighEvent, hd], nofun⟩

/-- WAIT_SEQ to its first Sample, from every state (42_transmit.md R197). -/
theorem runOps_waitSeq (s : State) : ∃ w, runOps waitSeq s = sampleSda w ∧ WaitBegun s w := by
  have hexcess (k : Nat) : (0 : Rat) ≤ (Config.excess k : Rat) := (Config.excess k).coe_nonneg
  have htime (j k : Nat) : s.time + 4 ≤ s.time + (2 + (Config.excess j : Rat)) + (2 + (Config.excess k : Rat)) := by
    linarith [hexcess j, hexcess k]
  obtain ⟨o, d, hsda, hlatch⟩ := setSda_high (waitFor 2 (setScl .high (runStmts [.phase .ackWait] s)))
  have hrun : runOps waitSeq s = sampleSda (Stmt.clearPolls.run (setSdaDir .input (waitFor 2 (setSda .high
      (waitFor 2 (setScl .high (runStmts [.phase .ackWait] s))))))) := by
    rw [waitSeq_eq, runOps_append, runOps_enter _ (by decide)]
    simp [waitHeadPrims, prims, firstSample, MicroOp.run, Prim.perform, Config.tShort]
  rw [hsda] at hrun
  refine ⟨_, hrun, ?_, hlatch, htime s.draws d⟩
  simp [Stmt.run, setSdaDir, waitFor, setScl, State.emit, State.elapse, State.drawn, waitHead, driveHighEvent]

/-! ### The samples -/

/-- `t` is `s` after the samples `bs`, all but the last of them counted. The slave's pending answers, as far as they go,
were these samples (42_transmit.md R197, 40_bit_sequencer.md R158). -/
structure TookSamples (s : State) (bs : List Level) (t : State) : Prop where
  state : t = { s with
    polls := t.polls, sampled := t.sampled, upc := t.upc, slave := t.slave, trace := s.trace ++ bs.map .sample
    time := t.time, draws := t.draws }
  polls : t.polls + 1#8 = s.polls + BitVec.ofNat 8 bs.length
  sampled : bs.getLast? = some t.sampled
  slave : t.slave = s.slave.drop bs.length
  answers : s.slave.take bs.length <+: bs
  time : s.time ≤ t.time

theorem le_sampleTime (s : State) : s.time ≤ s.time + ((Config.tPoll : Rat) + (Config.excess s.draws : Rat)) :=
  le_add_of_nonneg_right (by positivity)

theorem tookSamples_one {s : State} (hd : s.sdaDir = .input) (b : Block) :
    TookSamples s [slaveAnswer s] (goto b (sampleSda s)) := by
  rw [sampleSda_input s hd]
  refine ⟨?_, ?_, rfl, ?_, ?_, le_sampleTime s⟩
  · simp [goto, State.emit, State.drawn, State.elapse]
  · simp
  · simp
  · cases h : s.slave <;> simp [slaveAnswer, h]

/-- A HIGH sample, counted, and the samples after it. -/
theorem TookSamples.cons {s t : State} {bs : List Level} {b : Block} (hd : s.sdaDir = .input)
    (hhigh : slaveAnswer s = .high) (hne : bs ≠ []) (h : TookSamples (Stmt.countPoll.run (goto b (sampleSda s))) bs t) :
    TookSamples s (.high :: bs) t := by
  rw [sampleSda_input s hd, hhigh] at h
  obtain ⟨hstate, hpolls, hsampled, hslave, hanswers, htime⟩ := h
  have hdrop : t.slave = s.slave.drop (bs.length + 1) := by
    rw [hslave]
    exact List.drop_tail
  refine ⟨?_, ?_, ?_, hdrop, ?_, (le_sampleTime s).trans htime⟩
  · rw [hstate]
    simp [Stmt.run, goto, State.emit, State.drawn, State.elapse]
  · rw [hpolls, List.length_cons, BitVec.ofNat_add, BitVec.add_comm (BitVec.ofNat 8 bs.length), ← BitVec.add_assoc]
    simp [Stmt.run]
  · rw [List.getLast?_cons_of_ne_nil hne, hsampled]
  · cases hs : s.slave with
    | nil => simp
    | cons b rest =>
      obtain rfl : b = .high := by simpa [slaveAnswer, hs] using hhigh
      have htail : rest.take bs.length <+: bs := by simpa [Stmt.run, hs] using hanswers
      simpa using htail

/-! ### Conditions along a run -/

theorem conditions_execStates_cons (cond : State → State → Bool) {i : Instr} (n c : Nat) {s t : State}
    (h : exec i s = .next t) :
    conditionsFrom cond c (execStates i (n + 1) s) =
      (if cond s t then [c] else []) ++ conditionsFrom cond (c + 1) (execStates i n t) := by
  rw [execStates, h]
  cases n with
  | zero => rfl
  | succ n =>
    simp only [execStates]
    cases exec i t <;> rfl

/-- The conditions of a run are those of its first steps and those of the rest. -/
theorem conditions_execStates_add (cond : State → State → Bool) {i : Instr} {m n c : Nat} {s t : State}
    (h : execN i m s = .next t) :
    conditionsFrom cond c (execStates i (m + n) s) =
      conditionsFrom cond c (execStates i m s) ++ conditionsFrom cond (c + m) (execStates i n t) := by
  induction m generalizing s c with
  | zero => cases h; simp [execStates, conditionsFrom]
  | succ m ih =>
    rw [execN] at h
    split at h
    · rename_i u hu
      rw [Nat.add_right_comm, conditions_execStates_cons cond _ c hu, conditions_execStates_cons cond _ c hu, ih h,
        List.append_assoc, Nat.add_right_comm c 1 m, Nat.add_assoc c m 1]
    · cases h
    · cases h

/-- No start or stop condition in the next `n` engine steps of command `i`. -/
def Quiet (i : Instr) (n : Nat) (s : State) : Prop :=
  ∀ c, conditionsFrom startCondition c (execStates i n s) = [] ∧ conditionsFrom stopCondition c (execStates i n s) = []

theorem Quiet.zero (i : Instr) (s : State) : Quiet i 0 s := fun _ => ⟨rfl, rfl⟩

theorem Quiet.add {i : Instr} {m n : Nat} {s t : State} (hm : Quiet i m s) (h : execN i m s = .next t)
    (hn : Quiet i n t) : Quiet i (m + n) s := by
  intro c
  rw [conditions_execStates_add _ h, conditions_execStates_add _ h, (hm c).1, (hm c).2, (hn _).1, (hn _).2]
  exact ⟨rfl, rfl⟩

/-- A Sample leaves the pins alone (40_bit_sequencer.md R146). -/
theorem sdaLevel_sampleSda (s : State) : sdaLevel (sampleSda s) = sdaLevel s := by
  cases hd : s.sdaDir with
  | output => rw [sampleSda_output s hd]; rfl
  | input => rw [sampleSda_input s hd]; rfl

theorem quiet_sample {i : Instr} {s : State} {op : MicroOp} (hop : (commandCode i s.upc.block)[s.upc.pos]? = some op)
    (hp : op.prim = .sample) : Quiet i 1 s := by
  intro c
  obtain ⟨t, ht⟩ := exec_isNext (i := i) (s := s) (decide_eq_true (List.getElem?_eq_some_iff.mp hop).1)
  have hlevel : sdaLevel t = sdaLevel s := by
    have hobserved := exec_observed hop ht
    simp only [observed, Prod.mk.injEq] at hobserved
    rw [hobserved.2.1, MicroOp.run, hp, Prim.perform, sdaLevel_sampleSda]
    simp [sdaLevel, sdaMaster]
  obtain ⟨hstart, hstop⟩ := conditions_sdaKept hlevel
  rw [conditions_execStates_cons _ 0 c ht, conditions_execStates_cons _ 0 c ht, hstart, hstop]
  exact ⟨rfl, rfl⟩

/-! ### The decision -/

/-- The decision sets the position, whatever it was. -/
theorem afterSample_setUpc (f : Frame) (u : Upc) (s : State) : afterSample f (setUpc u s) = afterSample f s := by
  cases hs : s.sampled with
  | low => rw [afterSample_low hs, afterSample_low (s := setUpc u s) hs]; rfl
  | high => rw [afterSample_high hs, afterSample_high (s := setUpc u s) hs]; rfl

theorem afterSample_answerLow {f : Frame} {s : State} (hd : s.sdaDir = .input) (h : slaveAnswer s = .low) :
    afterSample f (sampleSda s) = goto (.acked f) (sampleSda s) :=
  afterSample_low (by rw [sampleSda_input s hd]; exact h)

theorem afterSample_answerHigh {f : Frame} {s : State} (hd : s.sdaDir = .input) (h : slaveAnswer s = .high) :
    afterSample f (sampleSda s) =
      if s.polls.toNat + 1 = Config.ackPollLimit then goto (.timeout f) (sampleSda s)
      else goto (.poll f) (sampleSda s) := by
  have hpolls : (sampleSda s).polls = s.polls := prim_polls .sample s
  rw [afterSample_high (by rw [sampleSda_input s hd]; exact h), hpolls]

/-- One more Sample of a wait (42_transmit.md R197). -/
theorem execN_poll {i : Instr} {f : Frame} (hwait : HasWait i f) {s : State}
    (hu : s.upc = { block := .poll f, pos := 0 }) :
    execN i 1 s = .next (afterSample f (sampleSda (Stmt.countPoll.run s))) ∧ Quiet i 1 s := by
  have hcode := hwait.pollCode
  have hblock := execN_block (i := i) hu (by rw [hcode]; decide)
  rw [hwait.pollLast, blockEnd, afterSample_setUpc, hcode] at hblock
  exact ⟨hblock, quiet_sample (op := { before := [.countPoll], prim := .sample }) (by rw [hu, hcode]; rfl) rfl⟩

/-- `t` is where the wait for frame `f` has been decided, `m` samples after its first and at most `n`, the first being
taken from `s` (42_transmit.md R197). -/
def WaitDecided (f : Frame) (n m : Nat) (s t : State) : Prop :=
  m ≤ n ∧ t.upc = { block := .acked f, pos := 0 } ∧ TookSamples s (List.replicate m .high ++ [.low]) t ∨
    m = n ∧ t.upc = { block := .timeout f, pos := 0 } ∧ TookSamples s (List.replicate (m + 1) .high) t

theorem WaitDecided.cons {f : Frame} {n m : Nat} {s t : State} {b : Block} (hd : s.sdaDir = .input)
    (hhigh : slaveAnswer s = .high) (h : WaitDecided f n m (Stmt.countPoll.run (goto b (sampleSda s))) t) :
    WaitDecided f (n + 1) (m + 1) s t := by
  rcases h with ⟨hm, hu, htook⟩ | ⟨hm, hu, htook⟩
  · exact .inl ⟨Nat.succ_le_succ hm, hu, htook.cons hd hhigh (by simp)⟩
  · exact .inr ⟨congrArg Nat.succ hm, hu, htook.cons hd hhigh (by simp)⟩

/-- From a Sample on, a wait takes the samples it needs and nothing else: each HIGH one is followed by another until
`ACK_POLL_LIMIT` of them are taken (42_transmit.md R200). -/
theorem wait_decided {i : Instr} {f : Frame} (hwait : HasWait i f) {n : Nat} {s : State} (hd : s.sdaDir = .input)
    (hn : s.polls.toNat + n + 1 = Config.ackPollLimit) :
    ∃ m t, execN i m (afterSample f (sampleSda s)) = .next t ∧ WaitDecided f n m s t ∧
      Quiet i m (afterSample f (sampleSda s)) := by
  induction n generalizing s with
  | zero =>
    refine ⟨0, _, rfl, ?_, Quiet.zero i _⟩
    cases hs : slaveAnswer s with
    | low =>
      rw [afterSample_answerLow hd hs]
      exact .inl ⟨Nat.le_refl 0, rfl, hs ▸ tookSamples_one hd _⟩
    | high =>
      rw [afterSample_answerHigh hd hs, if_pos hn]
      exact .inr ⟨rfl, rfl, hs ▸ tookSamples_one hd _⟩
  | succ n ih =>
    cases hs : slaveAnswer s with
    | low =>
      rw [afterSample_answerLow hd hs]
      exact ⟨0, _, rfl, .inl ⟨Nat.zero_le _, rfl, hs ▸ tookSamples_one hd _⟩, Quiet.zero i _⟩
    | high =>
      rw [afterSample_answerHigh hd hs, if_neg (by omega)]
      have hpolls : (goto (.poll f) (sampleSda s)).polls = s.polls := prim_polls .sample s
      have hle : s.polls.toNat + 1 ≤ Config.ackPollLimit := by omega
      have hcount : (s.polls + 1#8).toNat = s.polls.toNat + 1 :=
        BitVec.toNat_add_of_lt (Nat.lt_of_le_of_lt hle (by decide))
      obtain ⟨hstep, hone⟩ := execN_poll hwait (s := goto (.poll f) (sampleSda s)) rfl
      obtain ⟨m, t, hrun, hdecided, hquiet⟩ :=
        ih (s := Stmt.countPoll.run (goto (.poll f) (sampleSda s))) ((sampleSda_sdaDir s).trans hd)
          (by rw [Stmt.run, hpolls, hcount]; omega)
      have hrun' := (execN_then (n := m) hstep).trans hrun
      have hquiet' := hone.add hstep hquiet
      rw [Nat.add_comm 1 m] at hrun' hquiet'
      exact ⟨m + 1, t, hrun', hdecided.cons hd hs, hquiet'⟩

end Sys2Proof.Machine.Proofs
end

section
/-! O41, O42. WAIT_ACK from start to end, and what the slave's pending answers make of it. -/

namespace Sys2Proof.Machine.Proofs
open Sys2Proof.Machine.Laws Sys2Proof.Expected

/-- WAIT_ACK's five first primitives, its first Sample and `m` more, to the decision; the samples make no condition
(42_transmit.md R197). -/
theorem waitAck_decided {s : State} (hu : s.upc = { block := .main, pos := 0 }) :
    ∃ w m t, WaitBegun s w ∧ WaitDecided .address 99 m w t ∧ execN .waitAck (6 + m) s = .next t ∧
      ∃ v, execN .waitAck 5 s = .next v ∧ Quiet .waitAck (1 + m) v := by
  obtain ⟨w, hhead, hbegun⟩ := runOps_waitSeq s
  have hd : w.sdaDir = .input := by rw [hbegun.state]
  have hpolls : w.polls = 0#8 := by rw [hbegun.state]
  obtain ⟨m, t, hrun, hdecided, hquiet⟩ := wait_decided hasWait_waitAck hd (n := 99) (by rw [hpolls]; rfl)
  have hmain : execN .waitAck 6 s = .next (afterSample .address (sampleSda w)) := by
    have hblock := execN_block (i := .waitAck) hu (by decide)
    rw [blockEnd, show runOps (commandCode .waitAck .main) s = _ from hhead] at hblock
    exact hblock.trans (congrArg _ (afterSample_setUpc .address _ _))
  have hfive := execN_inside .waitAck .main 5 0 s hu (by decide)
  exact ⟨w, m, t, hbegun, hdecided, (execN_then hmain).trans hrun, _, hfive,
    (quiet_sample (op := firstSample) rfl rfl).add ((execN_then hfive).symm.trans hmain) hquiet⟩

/-- WAIT_ACK begun in `s` ends in `t`, sample `k` being the first LOW one (42_transmit.md R197). -/
structure EndsAcked (s : State) (k : Nat) (t : State) : Prop where
  state : t = { s with
    phase := .ackWait, scl := .low, sdaDir := .input, sdaOut := t.sdaOut, busy := false, ackResult := .acked
    pollCount := BitVec.ofNat 8 k, polls := BitVec.ofNat 8 k, sampled := .low, upc := t.upc, slave := t.slave
    trace := s.trace ++ ackedTrace (driveHighEvent s) k, time := t.time, draws := t.draws }
  latch : s.sdaDir = .output → t.sdaOut = .high
  slave : t.slave = s.slave.drop k
  answers : s.slave.take k <+: List.replicate (k - 1) .high ++ [.low]
  time : s.time + 4 ≤ t.time

/-- WAIT_ACK begun in `s` ends in `t`, 100 samples having been HIGH (42_transmit.md R197, R199). -/
structure EndsTimeout (s t : State) : Prop where
  state : t = { s with
    phase := .idle, scl := .high, sdaDir := .output, sdaOut := .high, busy := false, ackResult := .timeout
    pollCount := 100#8, polls := 100#8, sampled := .high, upc := t.upc, slave := t.slave
    trace := s.trace ++ timeoutTrace (driveHighEvent s), time := t.time, draws := t.draws }
  slave : t.slave = s.slave.drop 100
  answers : s.slave.take 100 <+: List.replicate 100 .high
  time : s.time + 14 ≤ t.time

/-- `u` after an acknowledged wait's `Drive(SCL, LOW)` and what completes WAIT_ACK (42_transmit.md R197). -/
def ackedEnd (u : State) : State :=
  { u with
    scl := .low, busy := false, ackResult := .acked, pollCount := u.polls + 1#8, polls := u.polls + 1#8
    trace := u.trace ++ [.scl .low] }

/-- `u` after the STOP_SEQ of a TIMEOUT and what completes WAIT_ACK (42_transmit.md R197). -/
def timeoutEnd (u : State) : State :=
  { u with
    phase := .idle, sdaDir := .output, scl := .high, sdaOut := .high, busy := false, ackResult := .timeout
    pollCount := u.polls + 1#8, polls := u.polls + 1#8, upc := { block := .timeout .address, pos := 7 }
    trace := u.trace ++ stopTrace, time := u.time + stopSeqTime u.draws, draws := u.draws + 3 }

theorem exec_acked {u : State} (hu : u.upc = { block := .acked .address, pos := 0 }) :
    exec .waitAck u = .next (ackedEnd u) := by
  rw [exec_eq_runCode, runCode_last (op := { before := [.countPoll], prim := .driveScl .low }) (by rw [hu]; rfl)
    (by rw [hu]; rfl), hu]
  rfl

theorem exec_timeout {u : State} (hu : u.upc = { block := .timeout .address, pos := 0 }) :
    ∃ v, execN .waitAck 7 u = .next v ∧ exec .waitAck v = .next (timeoutEnd u) := by
  obtain ⟨v, hrun, hexec⟩ := execN_toEnd .waitAck (.timeout .address) 0 7 u hu rfl
  have hstop : runOps ((commandCode .waitAck (.timeout .address)).drop 0) u =
      runOps stopSeq (runStmts [.countPoll] u) := runOps_enter (ops := stopSeq) [.countPoll] (by decide) u
  rw [hstop, runOps_stopSeq] at hexec
  exact ⟨v, hrun, hexec⟩

theorem endsAcked {s w u : State} {m : Nat} (hbegun : WaitBegun s w)
    (htook : TookSamples w (List.replicate m .high ++ [.low]) u) : EndsAcked s (m + 1) (ackedEnd u) := by
  obtain ⟨hw, hlatch, hbefore⟩ := hbegun
  obtain ⟨hstate, hpolls, hsampled, hslave, hanswers, htime⟩ := htook
  have hslow : u.sampled = .low := by simpa using hsampled.symm
  have hcount : u.polls + 1#8 = BitVec.ofNat 8 (m + 1) := by rw [hpolls, hw]; simp
  have hwslave : w.slave = s.slave := by rw [hw]
  have hwout : u.sdaOut = w.sdaOut := by rw [hstate]
  rw [hwslave, List.length_append, List.length_replicate, List.length_singleton] at hslave hanswers
  refine ⟨?_, fun h => hwout.trans (hlatch h), hslave, hanswers, hbefore.trans htime⟩
  rw [ackedEnd, hcount, hstate, hslow, hw]
  simp [ackedTrace]

theorem endsTimeout {s w u : State} (hbegun : WaitBegun s w) (htook : TookSamples w (List.replicate 100 .high) u) :
    EndsTimeout s (timeoutEnd u) := by
  obtain ⟨hw, -, hbefore⟩ := hbegun
  obtain ⟨hstate, hpolls, hsampled, hslave, hanswers, htime⟩ := htook
  have hshigh : u.sampled = .high := by simpa [List.getLast?_replicate] using hsampled.symm
  have hcount : u.polls + 1#8 = 100#8 := by rw [hpolls, hw]; rfl
  have hwslave : w.slave = s.slave := by rw [hw]
  rw [hwslave, List.length_replicate] at hslave hanswers
  refine ⟨?_, hslave, hanswers, ?_⟩
  · rw [timeoutEnd, hcount, hstate, hshigh, hw]
    simp only [timeoutTrace, List.map_replicate, List.append_assoc]
  · have hstop := ten_le_stopSeqTime u.draws
    show s.time + 14 ≤ u.time + stopSeqTime u.draws
    linarith

/-- WAIT_ACK from start to end: it is acknowledged at sample `m + 1`, or it times out after 100 samples, which make no
condition (42_transmit.md R197, R199). -/
theorem waitAck_ends {s : State} (hu : s.upc = { block := .main, pos := 0 }) :
    (∃ m u, m ≤ 99 ∧ execN .waitAck (6 + m) s = .next u ∧ exec .waitAck u = .next (ackedEnd u) ∧
      EndsAcked s (m + 1) (ackedEnd u)) ∨
    (∃ u, execN .waitAck 105 s = .next u ∧ u.upc = { block := .timeout .address, pos := 0 } ∧
      EndsTimeout s (timeoutEnd u) ∧ (s.sdaDir = .output → u.sdaOut = .high) ∧
      ∃ v, execN .waitAck 5 s = .next v ∧ Quiet .waitAck 100 v) := by
  obtain ⟨w, m, u, hbegun, ⟨hm, hu', htook⟩ | ⟨rfl, hu', htook⟩, hrun, hsamples⟩ := waitAck_decided hu
  · exact .inl ⟨m, u, hm, hrun, exec_acked hu', endsAcked hbegun htook⟩
  · have hlatch : u.sdaOut = w.sdaOut := by rw [htook.state]
    exact .inr ⟨u, hrun, hu', endsTimeout hbegun htook, fun h => hlatch.trans (hbegun.latch h), hsamples⟩

/-- Settles O41: the wait is decided after at most 100 samples, for an acknowledgment or a TIMEOUT. -/
theorem waitAckOutcome : Obligations.WaitAckOutcome := by
  intro s hu
  rcases waitAck_ends hu with ⟨m, u, hm, hrun, hexec, hends⟩ | ⟨u, hrun, hu', hends, -⟩
  · refine .inl ⟨m + 1, u, _, Nat.le_add_left 1 m, Nat.succ_le_succ hm, ?_, hexec, hends.state, hends.latch, hends.time⟩
    rw [← hrun]
    congr 1
    omega
  · obtain ⟨v, hstop, hexec⟩ := exec_timeout hu'
    exact .inr ⟨v, _, (execN_then hrun).trans hstop, hexec, hends.state, hends.time⟩

/-! ### The slave's pending answers -/

/-- Where the pending answers are known, they are the samples. -/
theorem getElem?_of_answers {α : Type} {l bs : List α} {n j : Nat} {b : α} (h : l.take n <+: bs) (hj : j < n)
    (hb : l[j]? = some b) : bs[j]? = some b := by
  obtain ⟨rest, rfl⟩ := h
  have hlt : j < (l.take n).length := by
    have := (List.getElem?_eq_some_iff.mp hb).1
    rw [List.length_take]
    omega
  rw [List.getElem?_append_left hlt, List.getElem?_take_of_lt hj, hb]

section Answers
variable {l : List Level} {m j : Nat} {b : Level} (h : l.take (m + 1) <+: List.replicate m .high ++ [.low])
include h

theorem acknowledging_answer (hb : l[m]? = some b) : b = .low := by
  simpa using (getElem?_of_answers h (Nat.lt_succ_self m) hb).symm

theorem earlier_answer (hj : j < m) (hb : l[j]? = some b) : b = .high := by
  have hsample := getElem?_of_answers h (Nat.lt_succ_of_lt hj) hb
  rw [List.getElem?_append_left (by simpa using hj), List.getElem?_replicate_of_lt hj] at hsample
  exact (Option.some.inj hsample).symm

end Answers

/-- Settles O42: the first LOW answer is the sample that acknowledges, neither an earlier nor a later one, and there is
no TIMEOUT with a LOW answer among 100. -/
theorem waitAckAcked : Obligations.WaitAckAcked := by
  intro k rest s hk hk100 hu hslave
  have hlow : s.slave[k - 1]? = some .low := by simp [hslave]
  have hhigh (j : Nat) (hj : j < k - 1) : s.slave[j]? = some .high := by
    rw [hslave, List.getElem?_append_left (by simpa using hj), List.getElem?_replicate_of_lt hj]
  rcases waitAck_ends hu with ⟨m, u, hm, hrun, hexec, hends⟩ | ⟨u, -, -, hends, -⟩
  · have hanswers : s.slave.take (m + 1) <+: List.replicate m .high ++ [.low] := hends.answers
    have hle : k - 1 ≤ m := by
      by_contra hlt
      cases acknowledging_answer hanswers (hhigh m (Nat.lt_of_not_le hlt))
    have hge : m ≤ k - 1 := by
      by_contra hlt
      cases earlier_answer hanswers (Nat.lt_of_not_le hlt) hlow
    obtain rfl : k = m + 1 := by omega
    have hrest : s.slave.drop (m + 1) = rest := by simp [hslave, List.drop_append]
    have hcount : (BitVec.ofNat 8 (m + 1)).toNat = m + 1 := Nat.mod_eq_of_lt (by omega)
    exact ⟨_, execN_succ hrun hexec, rfl, rfl,
      (congrArg (fun t => t.pollCount.toNat) hends.state).trans hcount, congrArg State.phase hends.state, rfl,
      congrArg State.sdaDir hends.state, hends.slave.trans hrest, congrArg State.trace hends.state⟩
  · have hsample := getElem?_of_answers hends.answers (j := k - 1) (by omega) hlow
    rw [List.getElem?_replicate_of_lt (by omega)] at hsample
    cases hsample

end Sys2Proof.Machine.Proofs
end

section
/-! O43. The conditions of a WAIT_ACK that times out: those of its head and those of its STOP_SEQ (42_transmit.md
R199). -/

namespace Sys2Proof.Machine.Proofs
open Sys2Proof.Machine.Laws Sys2Proof.Expected

/-- The numbering of conditions may begin anywhere. -/
theorem conditionsFrom_add (cond : State → State → Bool) (c n : Nat) (l : List State) :
    conditionsFrom cond (c + n) l = (conditionsFrom cond n l).map (c + ·) := by
  induction l generalizing n with
  | nil => rfl
  | cons s l ih =>
    cases l with
    | nil => rfl
    | cons t l =>
      rw [conditionsFrom, conditionsFrom, List.map_append, ← ih, Nat.add_assoc]
      split <;> rfl

/-- STOP_SEQ makes a start condition where its `Dir(OUT)` finds SDA released with the latch LOW (41_bus_conditions.md
R176, 70_reset_and_hazards.md R305). -/
theorem startConditions_stopSeq (s : State) :
    conditionsFrom startCondition 0 (opStates stopSeq s) =
      if s.scl = .high ∧ s.sdaDir = .input ∧ s.sdaOut = .low then [0] else [] := by
  rw [stopSeq, conditions_enter readsObserved_start _ (by decide)]
  simp

theorem IsStopSeq.no_startConditions {i : Instr} {b : Block} (h : IsStopSeq i b) {s : State}
    (hu : s.upc = { block := b, pos := 0 }) (hout : s.sdaOut = .high) :
    conditionsFrom startCondition 0 (execStates i 8 s) = [] := by
  obtain ⟨cs, hcode⟩ := h.code
  rw [← h.length, conditions_execStates readsObserved_start hu, hcode,
    conditions_enter readsObserved_start cs (by decide), startConditions_stopSeq]
  simp [hout]

/-- Between the head and the STOP_SEQ of a timed out WAIT_ACK there are samples only. -/
theorem conditions_waitAck_timeout {cond : State → State → Bool} {s u v : State} (hv : execN .waitAck 5 s = .next v)
    (hu : execN .waitAck 105 s = .next u) (hquiet : conditionsFrom cond 5 (execStates .waitAck 100 v) = []) :
    conditionsFrom cond 0 (execStates .waitAck 113 s) =
      conditionsFrom cond 0 (execStates .waitAck 5 s) ++
        (conditionsFrom cond 0 (execStates .waitAck 8 u)).map (105 + ·) := by
  rw [← conditionsFrom_add, conditions_execStates_add (m := 105) (n := 8) cond hu,
    conditions_execStates_add (m := 5) (n := 100) cond hv, hquiet, List.append_nil]

/-- Settles O43: no answer among the first 100 can acknowledge, so the wait times out; the one stop condition of its
STOP_SEQ is event 105 + 6. -/
theorem waitAckTimeout : Obligations.WaitAckTimeout := by
  intro rest s hu hslave
  rcases waitAck_ends hu with ⟨m, u, hm, -, -, hends⟩ | ⟨u, hrun, hu', hends, hlatch, v, hv, hquiet⟩
  · have hhigh : s.slave[m]? = some .high := by
      rw [hslave, List.getElem?_append_left (by simp; omega), List.getElem?_replicate_of_lt (by omega)]
    cases acknowledging_answer hends.answers hhigh
  · obtain ⟨x, hstopRun, hexec⟩ := exec_timeout hu'
    have hstop : conditionsFrom stopCondition 0 (execStates .waitAck 113 s) =
        (if s.sdaDir = .output ∧ s.sdaOut = .low then [2] else []) ++ [111] := by
      rw [conditions_waitAck_timeout hv hrun (hquiet 5).2, stopConditions_waitAckHead hu,
        isStopSeq_waitAck.stopConditions hu']
      rfl
    have hrest : s.slave.drop 100 = rest := by simp [hslave]
    refine ⟨timeoutEnd u, execN_succ ((execN_then hrun).trans hstopRun) hexec, rfl, ⟨rfl, rfl, rfl, rfl⟩, rfl,
      congrArg State.pollCount hends.state, hends.slave.trans hrest, congrArg State.trace hends.state, ?_,
      fun _ hdir hout => ⟨?_, ?_⟩⟩
    · rw [hstop]
      split <;> rfl
    · rw [hstop]
      simp [hout]
    · rw [conditions_waitAck_timeout hv hrun (hquiet 5).1, startConditions_waitAckHead hu,
        isStopSeq_waitAck.no_startConditions hu' (hlatch hdir)]
      rfl

end Sys2Proof.Machine.Proofs
end

section
/-! O48, O49. ACK_SEQ, of ACK and of READ_BYTE: what it leaves, and what it shows on the wire (43_receive.md R221). -/

namespace Sys2Proof.Machine.Proofs
open Sys2Proof.Machine.Laws Sys2Proof.Expected

/-- ACK_SEQ, from every state (43_receive.md R221). -/
theorem runOps_ackSeq (s : State) :
    runOps ackSeq s = { s with
      sdaDir := .output, scl := .low, sdaOut := .low, trace := s.trace ++ ackTrace
      time := s.time + bitTime s.draws, draws := s.draws + 2 } := by
  simp [ackSeq, prims, MicroOp.run, Prim.perform, setSdaDir, setScl, setSda, waitFor, State.emit, State.elapse,
    State.drawn, ackTrace, bitTime, Config.tShort, add_assoc]

/-- ACK_SEQ moves SDA only while SCL is LOW, before its one pulse. -/
theorem framed_ackSeq (s : State) : Framed [.low] (opStates ackSeq s) := by
  constructor
  · simp [ackSeq, clockPulses, pulsesFrom, sdaLevel_driven]
  · simp [ackSeq]

section AckSeq
variable {i : Instr} {k : Nat} {cs ds : List Stmt} {s : State} (hu : s.upc = { block := .main, pos := k })
  (hcode : (commandCode i .main).drop k = enter cs ackSeq)
include hu hcode

/-- A command that ends with ACK_SEQ, from there on. -/
theorem exec_ackSeq (hlast : commandLast i .main = complete ds) :
    ∃ u, execN i 6 s = .next u ∧ exec i u =
      .next (complete ds (setUpc { block := .main, pos := k + 6 } (runOps ackSeq (runStmts cs s)))) := by
  have hlength : (commandCode i .main).length - k = 7 := by
    rw [← List.length_drop, hcode, enter_length]
    rfl
  have h := execN_toEnd i .main k 6 s hu (by omega)
  rwa [hcode, runOps_enter cs (by decide), hlast] at h

theorem framed_execStates_ackSeq : Framed [.low] (execStates i 7 s) := by
  have hlength : (enter cs ackSeq).length = 7 := by rw [enter_length]; rfl
  have hobserved := execStates_observed (ops := enter cs ackSeq) hu (by rw [hcode])
  rw [hlength] at hobserved
  exact ((framed_ackSeq _).congr (observed_enter cs (by decide) s)).congr hobserved

end AckSeq

/-- Settles O48: ACK is ACK_SEQ after its entry phase. -/
theorem ackResultState : Obligations.AckResultState := by
  intro s hu
  obtain ⟨u, hrun, hlast⟩ := exec_ackSeq (i := .ack) (cs := [.phase .data]) hu rfl rfl
  rw [runOps_ackSeq] at hlast
  exact ⟨u, _, hrun, hlast, rfl, add_le_add_right (four_le_bitTime s.draws) s.time, linesWord_drivenLow rfl rfl rfl⟩

/-- Settles O49: at both places the command's last seven primitives are ACK_SEQ. -/
theorem ackSeqOnePulse : Obligations.AckSeqOnePulse := by
  intro i s hplace
  obtain ⟨k, cs, ds, hu, hcode, hlast⟩ : ∃ k cs ds, s.upc = { block := .main, pos := k } ∧
      (commandCode i .main).drop k = enter cs ackSeq ∧ commandLast i .main = complete ds := by
    rcases hplace with ⟨rfl, hu⟩ | ⟨rfl, hu⟩
    · exact ⟨0, [.phase .data], [], hu, rfl, rfl⟩
    · exact ⟨41, [.insertAcc 7], [.storeRxdata], hu, rfl, rfl⟩
  obtain ⟨u, hrun, hexec⟩ := exec_ackSeq hu hcode hlast
  obtain ⟨hpulses, hconds⟩ := framed_execStates_ackSeq hu hcode
  refine ⟨⟨_, execN_succ hrun hexec, ?_⟩, hpulses, hconds 0⟩
  rw [runOps_ackSeq]
  simp [setUpc, four_le_bitTime]

end Sys2Proof.Machine.Proofs
end

section
/-! O50, O51. READ_BYTE from start to end: each of its eight samples goes to its own bit of `s.acc`, most significant
first (43_receive.md R223). -/

namespace Sys2Proof.Machine.Proofs
open Sys2Proof.Machine.Laws Sys2Proof.Expected

/-! ### The bits of a byte on the bus -/

/-- `v[7-i] <- b` stores its bit and leaves the other seven (43_receive.md R223). -/
theorem getLsbD_insertBusBit (v : Byte) (b : Level) {i j : Nat} (hj : j < 8) :
    (insertBusBit v i b).getLsbD j = if j = 7 - i then bitOfLevel b else v.getLsbD j := by
  rw [insertBusBit, ← BitVec.twoPow_eq]
  have hlt : 7 - i < 8 := by omega
  by_cases h : j = 7 - i
  · cases b <;> simp [bitOfLevel, h, hlt]
  · cases b <;> simp [bitOfLevel, h, hj]

theorem bit_insertBusBit_same (v : Byte) (i : Nat) (b : Level) : bit (insertBusBit v i b) i = b := by
  rw [bit, getLsbD_insertBusBit v b (by omega), if_pos rfl]
  cases b <;> rfl

theorem bit_insertBusBit_other (v : Byte) (b : Level) {i k : Nat} (hki : k < i) (hi : i < 8) :
    bit (insertBusBit v i b) k = bit v k := by
  have hne : 7 - k ≠ 7 - i := by omega
  rw [bit, bit, getLsbD_insertBusBit v b (by omega), if_neg hne]

/-- A byte is its eight bus bits. -/
theorem eq_of_bits {v w : Byte} (h : ∀ k, k < 8 → bit v k = bit w k) : v = w := by
  apply BitVec.eq_of_getLsbD_eq
  intro j hj
  have hbit := h (7 - j) (by omega)
  rw [bit, bit, show 7 - (7 - j) = j by omega] at hbit
  cases hv : v.getLsbD j <;> cases hw : w.getLsbD j <;> simp [hv, hw] at hbit ⊢

/-! ### READ_SEQ -/

/-- The primitives of one bit of READ_SEQ (43_receive.md R223). -/
def readBitPrims : List Prim := [.driveScl .low, .delay Config.tShort, .driveScl .high, .delay Config.tShort, .sample]

/-- The events of one bit of READ_SEQ (43_receive.md R223). -/
def sampleTrace (b : Level) : List Event := [.scl .low, .delay 2, .scl .high, .delay 2, .sample b]

theorem readTrace_eq (bits : List Level) : readTrace bits = .dir .input :: bits.flatMap sampleTrace := rfl

/-- What the Sample of a bit of READ_SEQ begun in `s` reads: the delays before it have drawn twice (40_bit_sequencer.md
R146). -/
def bitAnswer (s : State) : Level := s.slave.headD (Config.slaveAnswer (s.draws + 2))

/-- The two delays and the Sample of a bit of READ_SEQ begun at the `n`-th draw (40_bit_sequencer.md R145, R146). -/
def readBitTime (n : Nat) : Rat := bitTime n + ((Config.tPoll : Rat) + (Config.excess (n + 2) : Rat))

theorem four_le_readBitTime (n : Nat) : 4 ≤ readBitTime n :=
  (four_le_bitTime n).trans (le_add_of_nonneg_right (by positivity))

/-- One bit of READ_SEQ, with SDA released (43_receive.md R223). -/
theorem runOps_readBit {s : State} (hd : s.sdaDir = .input) :
    runOps (prims readBitPrims) s = { s with
      scl := .high, sampled := bitAnswer s, slave := s.slave.tail, trace := s.trace ++ sampleTrace (bitAnswer s)
      time := s.time + readBitTime s.draws, draws := s.draws + 3 } := by
  simp [readBitPrims, prims, MicroOp.run, Prim.perform, setScl, waitFor, sampleSda_input, hd, State.emit, State.elapse,
    State.drawn, slaveAnswer, bitAnswer, sampleTrace, readBitTime, bitTime, Config.tShort, add_assoc]

/-- The first `n` bits of READ_SEQ, each with the store of its sample (43_receive.md R223). -/
def receiveBits : Nat → State → State
  | 0, s => s
  | n + 1, s => (Stmt.insertAcc n).run (runOps (prims readBitPrims) (receiveBits n s))

/-- `s` as the first bit of READ_SEQ finds it: SDA released and `s.acc` cleared (43_receive.md R223). -/
def readBegun (s : State) : State := Stmt.clearAcc.run (setSdaDir .input s)

/-- The store of a sample runs in the step of the next bit's first primitive, the last one in that of ACK_SEQ's. -/
theorem insertAcc_runOps_readSeqBits (n : Nat) (s : State) :
    (Stmt.insertAcc n).run (runOps (prims [.setDir .input] ++ readSeqBit .clearAcc ++
      (List.range n).flatMap fun i => readSeqBit (.insertAcc i)) s) = receiveBits (n + 1) (readBegun s) := by
  induction n with
  | zero => rfl
  | succ n ih =>
    have hbit : readSeqBit (.insertAcc n) = enter [.insertAcc n] (prims readBitPrims) := rfl
    rw [List.range_succ, List.flatMap_append, ← List.append_assoc, runOps_append, List.flatMap_singleton, hbit,
      runOps_enter _ (by decide), runStmts_cons, runStmts_nil, ih]
    rfl

theorem runOps_readByteCode (s : State) :
    runOps readByteCode s = runOps ackSeq (receiveBits 8 (readBegun ((Stmt.phase .data).run s))) := by
  rw [readByteCode, runOps_append, runOps_enter _ (by decide), runOps_enter _ (by decide)]
  exact congrArg (runOps ackSeq) (insertAcc_runOps_readSeqBits 7 _)

/-- `t` is `s` after `n` bits of READ_SEQ: bus bit `k` of `s.acc` is sample `k`. The slave's pending answers, as far as
they go, were these samples (43_receive.md R223, 40_bit_sequencer.md R158). -/
structure Received (n : Nat) (s t : State) : Prop where
  state : t = { s with
    scl := t.scl, acc := t.acc, sampled := t.sampled, slave := t.slave
    trace := s.trace ++ ((List.range n).map (bit t.acc)).flatMap sampleTrace, time := t.time, draws := t.draws }
  slave : t.slave = s.slave.drop n
  answers : ∀ k b, k < n → s.slave[k]? = some b → bit t.acc k = b
  time : s.time + ((4 * n : Nat) : Rat) ≤ t.time

theorem Received.zero (s : State) : Received 0 s s :=
  ⟨by simp, rfl, by simp, by simp⟩

/-- Where the slave's answers to `n` bits are behind, its answer `n` is the next one. -/
theorem bitAnswer_of_pending {s t : State} {n : Nat} {b : Level} (hslave : t.slave = s.slave.drop n)
    (hb : s.slave[n]? = some b) : bitAnswer t = b := by
  rw [bitAnswer, hslave, List.headD_eq_head?_getD, List.head?_drop, hb, Option.getD_some]

/-- One more bit, and the store of its sample. -/
theorem Received.succ {n : Nat} {s t : State} (hn : n < 8) (hd : s.sdaDir = .input) (h : Received n s t) :
    Received (n + 1) s ((Stmt.insertAcc n).run (runOps (prims readBitPrims) t)) := by
  obtain ⟨hstate, hslave, hanswers, htime⟩ := h
  have hdir : t.sdaDir = .input := by rw [hstate]; exact hd
  have hkept : (List.range n).map (bit (insertBusBit t.acc n (bitAnswer t))) = (List.range n).map (bit t.acc) :=
    List.map_congr_left fun k hk => bit_insertBusBit_other _ _ (List.mem_range.mp hk) hn
  have hbits : (List.range (n + 1)).map (bit (insertBusBit t.acc n (bitAnswer t))) =
      (List.range n).map (bit t.acc) ++ [bitAnswer t] := by
    rw [List.range_succ, List.map_append, hkept, List.map_singleton, bit_insertBusBit_same]
  rw [runOps_readBit hdir, Stmt.run]
  refine ⟨?_, ?_, fun k b hk hb => ?_, ?_⟩
  · simp only [hbits, List.flatMap_append, List.flatMap_singleton, ← List.append_assoc]
    rw [hstate]
  · rw [hslave, List.tail_drop]
  · rcases Nat.lt_succ_iff_lt_or_eq.mp hk with hlt | rfl
    · exact (bit_insertBusBit_other _ _ hlt hn).trans (hanswers k b hlt hb)
    · exact (bit_insertBusBit_same _ _ _).trans (bitAnswer_of_pending hslave hb)
  · have := four_le_readBitTime t.draws
    push_cast at htime ⊢
    linarith

theorem received_receiveBits {n : Nat} {s : State} (hn : n ≤ 8) (hd : s.sdaDir = .input) :
    Received n s (receiveBits n s) := by
  induction n with
  | zero => exact .zero s
  | succ n ih => exact (ih (by omega)).succ hn hd

/-! ### READ_BYTE -/

/-- `r` after READ_BYTE's ACK_SEQ and what completes READ_BYTE (43_receive.md R224). -/
def readByteEnd (r : State) : State :=
  { r with
    sdaDir := .output, scl := .low, sdaOut := .low, busy := false, rxdata := r.acc
    upc := { block := .main, pos := 47 }, trace := r.trace ++ ackTrace
    time := r.time + bitTime r.draws, draws := r.draws + 2 }

theorem commandLast_readByte (r : State) :
    commandLast .readByte .main (setUpc { block := .main, pos := 47 } (runOps ackSeq r)) = readByteEnd r := by
  rw [runOps_ackSeq]
  rfl

/-- READ_BYTE from start to end: eight bits, then ACK_SEQ (43_receive.md R224). -/
theorem readByte_ends {s : State} (hu : s.upc = { block := .main, pos := 0 }) :
    ∃ u r, execN .readByte 47 s = .next u ∧ exec .readByte u = .next (readByteEnd r) ∧
      Received 8 (readBegun ((Stmt.phase .data).run s)) r := by
  obtain ⟨u, hrun, hlast⟩ := exec_mainBlock (i := .readByte) (n := 47) hu rfl
  rw [show runOps (commandCode .readByte .main) s = _ from runOps_readByteCode s, commandLast_readByte] at hlast
  exact ⟨u, _, hrun, hlast, received_receiveBits (Nat.le_refl 8) rfl⟩

/-- Settles O50: RXDATA is `s.acc`, whose eight bits are the samples. -/
theorem readByteResult : Obligations.ReadByteResult := by
  intro s hu
  obtain ⟨u, r, hrun, hexec, hstate, -, -, htime⟩ := readByte_ends hu
  refine ⟨(List.range 8).map (bit r.acc), u, readByteEnd r, by simp, hrun, hexec, ?_, fun k hk => ?_, ?_⟩
  · rw [readTrace_eq, readByteEnd, hstate]
    simp [readBegun, Stmt.run, setSdaDir, State.emit]
  · rw [List.getElem?_map, List.getElem?_range hk]
    rfl
  · have hack := four_le_bitTime r.draws
    have hbits : s.time + 32 ≤ r.time := by simpa [readBegun, Stmt.run, setSdaDir] using htime
    show s.time + 36 ≤ r.time + bitTime r.draws
    linarith

/-- Settles O51: the eight pending answers are the samples, so `s.acc` has the bits of `B`. -/
theorem readByteRoundTrip : Obligations.ReadByteRoundTrip := by
  intro B rest s hu hslave
  obtain ⟨u, r, hrun, hexec, -, hdrop, hanswers, -⟩ := readByte_ends hu
  have hpending : (readBegun ((Stmt.phase .data).run s)).slave = (List.range 8).map (bit B) ++ rest := hslave
  rw [hpending] at hdrop hanswers
  have hbyte : r.acc = B := eq_of_bits fun k hk => hanswers k _ hk (by
    rw [List.getElem?_append_left (by simpa using hk), List.getElem?_map, List.getElem?_range hk]
    rfl)
  exact ⟨_, execN_succ hrun hexec, rfl, hbyte, hdrop.trans (by simp)⟩

end Sys2Proof.Machine.Proofs
end

section
/-! O53, the phase. While a WRITE_TXN runs its phase is read off its position (44_transaction.md R241). -/

namespace Sys2Proof.Machine.Proofs
open Sys2Proof.Machine.Laws Sys2Proof.Expected

/-- The phase after a statement. -/
def phaseAfter : Stmt → Phase → Phase
  | .phase q, _ => q
  | _, p => p

theorem stmt_phase (c : Stmt) (s : State) : (c.run s).phase = phaseAfter c s.phase := by cases c <;> rfl

/-- The phase after statements, one after another. -/
def phaseAfterAll (cs : List Stmt) (p : Phase) : Phase := cs.foldl (fun q c => phaseAfter c q) p

theorem runStmts_phase (cs : List Stmt) (s : State) : (runStmts cs s).phase = phaseAfterAll cs s.phase := by
  induction cs generalizing s with
  | nil => rfl
  | cons c cs ih => rw [runStmts_cons, ih, stmt_phase]; rfl

theorem op_phase (op : MicroOp) (s : State) : (op.run s).phase = phaseAfterAll op.before s.phase := by
  rw [MicroOp.run, prim_phase, runStmts_phase]

/-- In the rest `ops` of block `b` from its primitive `k` on, the statements of each primitive make of the phase at its
position the phase at the next one. -/
def phasesFollow (b : Block) : Nat → List MicroOp → Bool
  | _, [] => true
  | k, op :: ops =>
    decide (phaseAfterAll op.before (txnPhase { block := b, pos := k }) = txnPhase { block := b, pos := k + 1 })
      && phasesFollow b (k + 1) ops

theorem phasesFollow_getElem? {b : Block} {k p : Nat} {ops : List MicroOp} {op : MicroOp}
    (h : phasesFollow b k ops = true) (hop : ops[p]? = some op) :
    phaseAfterAll op.before (txnPhase { block := b, pos := k + p }) = txnPhase { block := b, pos := k + p + 1 } := by
  induction ops generalizing k p with
  | nil => cases hop
  | cons op' ops ih =>
    simp only [phasesFollow, Bool.and_eq_true, decide_eq_true_eq] at h
    cases p with
    | zero => cases hop; exact h.1
    | succ p =>
      have hrest := ih h.2 (p := p) hop
      rwa [Nat.add_right_comm k 1 p] at hrest

theorem writeTxnCode_phasesFollow (a : Addr7) (b : Block) : phasesFollow b 0 (writeTxnCode a b) = true := by
  cases b with
  | main | poll | acked | timeout => rfl
  | payload f | close f => cases f <;> rfl

/-- A primitive of WRITE_TXN leaves the phase of the position after it; the first one, which enters START_SEQ, whatever
phase it finds (44_transaction.md R241). -/
theorem writeTxnOp_phase {a : Addr7} {b : Block} {p : Nat} {op : MicroOp} (hop : (writeTxnCode a b)[p]? = some op)
    {s : State} (hs : s.phase = txnPhase { block := b, pos := p } ∨ b = .main ∧ p = 0) :
    (op.run s).phase = txnPhase { block := b, pos := p + 1 } := by
  rw [op_phase]
  rcases hs with hs | ⟨rfl, rfl⟩
  · have h := phasesFollow_getElem? (writeTxnCode_phasesFollow a b) hop
    rwa [Nat.zero_add, ← hs] at h
  · cases hop
    rfl

section Transaction
variable {a : Addr7} {len : Len}

/-- The phase of WRITE_TXN at its position, IDLE at an end position once it has completed (44_transaction.md R241). -/
def PhaseFollows (i : Instr) (s : State) : Prop :=
  s.phase = (if s.busy then txnPhase s.upc else .idle) ∧ (s.busy = false → atEnd i s.upc)

theorem PhaseFollows.of_busy {i : Instr} {s : State} (hb : s.busy = true) (h : s.phase = txnPhase s.upc) :
    PhaseFollows i s := by
  rw [PhaseFollows, hb]
  exact ⟨h, nofun⟩

/-- A block that does not complete the transaction is left, and the next one entered, in ACK_WAIT. -/
theorem phaseFollows_goto {i : Instr} {b : Block} {s : State} (hb : s.busy = true) (h : s.phase = .ackWait)
    (hne : b ≠ .main) : PhaseFollows i (goto b s) := by
  refine .of_busy hb (h.trans ?_)
  cases b with
  | main => exact absurd rfl hne
  | poll | acked | timeout | payload | close => rfl

theorem phaseFollows_afterSample {i : Instr} {f : Frame} {s : State} (hb : s.busy = true) (h : s.phase = .ackWait) :
    PhaseFollows i (afterSample f s) := by
  obtain ⟨b, hgoto, hblock⟩ := afterSample_goto f s
  rw [hgoto]
  exact phaseFollows_goto hb h (by rcases hblock with rfl | rfl | rfl <;> nofun)

theorem phaseFollows_nextFrame {i : Instr} {f : Frame} {s : State} (hb : s.busy = true) (h : s.phase = .ackWait) :
    PhaseFollows i (nextFrame len f s) := by
  obtain ⟨b, hgoto, hblock⟩ := nextFrame_goto len f s
  rw [hgoto]
  exact phaseFollows_goto hb h (by rcases hblock with rfl | rfl <;> nofun)

theorem atEnd_last {u : Upc} (h : atEnd (.writeTxn a len) u) : u.pos + 1 = (writeTxnCode a u.block).length := by
  obtain ⟨f, rfl | rfl⟩ := h <;> rfl

/-- What follows WRITE_TXN's last primitive, in every outcome. -/
theorem phaseFollows_atEnd {s : State} (h : atEnd (.writeTxn a len) s.upc) :
    PhaseFollows (.writeTxn a len) (writeTxnLast len s.upc.block s) := by
  obtain ⟨f, hu | hu⟩ := h <;> rw [hu]
  · exact ⟨by cases f <;> rfl, fun _ => ⟨f, .inl ((complete_upc _ s).trans hu)⟩⟩
  · exact ⟨rfl, fun _ => ⟨f, .inr ((complete_upc _ s).trans hu)⟩⟩

/-- What follows a block of WRITE_TXN, the phase being that of the position after its last primitive. -/
theorem phaseFollows_last {s : State} (hend : s.upc.pos + 1 = (writeTxnCode a s.upc.block).length)
    (hb : s.busy = true) (h : s.phase = txnPhase { s.upc with pos := s.upc.pos + 1 }) :
    PhaseFollows (.writeTxn a len) (writeTxnLast len s.upc.block s) := by
  obtain ⟨b, p, hu⟩ : ∃ b p, s.upc = { block := b, pos := p } := ⟨_, _, rfl⟩
  rw [hend] at h
  rw [hu] at hend h ⊢
  cases b with
  | main | poll | payload => exact phaseFollows_afterSample hb h
  | acked f => exact phaseFollows_nextFrame hb h
  | timeout f => cases hend; rw [← hu]; exact phaseFollows_atEnd ⟨f, .inl hu⟩
  | close f => cases hend; rw [← hu]; exact phaseFollows_atEnd ⟨f, .inr hu⟩

/-- An engine step of a running WRITE_TXN, from its first position or from a later one. -/
theorem exec_phaseFollows {s t : State} (hb : s.busy = true)
    (hs : s.phase = txnPhase s.upc ∨ s.upc = { block := .main, pos := 0 }) (h : exec (.writeTxn a len) s = .next t) :
    PhaseFollows (.writeTxn a len) t := by
  obtain ⟨op, hop, hnext⟩ := exec_next h
  have hphase := writeTxnOp_phase hop (hs.imp_right fun hu => by rw [hu]; exact ⟨rfl, rfl⟩)
  have hbusy : (op.run s).busy = true := (op_busy op s).trans hb
  rw [← op_upc op s] at hnext hphase
  rcases hnext with ⟨hend, rfl⟩ | ⟨-, rfl⟩
  · exact phaseFollows_last hend hbusy hphase
  · exact .of_busy hbusy hphase

/-- A completed WRITE_TXN stands at an end position, where an engine step repeats its last primitive. -/
theorem exec_atEnd_phaseFollows {s t : State} (hat : atEnd (.writeTxn a len) s.upc)
    (h : exec (.writeTxn a len) s = .next t) : PhaseFollows (.writeTxn a len) t := by
  obtain ⟨op, -, ⟨-, rfl⟩ | ⟨hinside, -⟩⟩ := exec_next h
  · rw [← op_upc op s] at hat ⊢
    exact phaseFollows_atEnd hat
  · exact absurd (atEnd_last hat) hinside.ne

theorem PhaseFollows.exec {s t : State} (hs : PhaseFollows (.writeTxn a len) s)
    (h : exec (.writeTxn a len) s = .next t) : PhaseFollows (.writeTxn a len) t := by
  obtain ⟨hphase, hat⟩ := hs
  cases hb : s.busy with
  | false => exact exec_atEnd_phaseFollows (hat hb) h
  | true => exact exec_phaseFollows hb (.inl (by rwa [hb] at hphase)) h

/-- Along a run of WRITE_TXN by the engine alone (44_transaction.md R241). -/
theorem execN_phaseFollows {m : Nat} {s u : State} (hu : s.upc = { block := .main, pos := 0 }) (hb : s.busy = true)
    (hm : 0 < m) (h : execN (.writeTxn a len) m s = .next u) : u.phase = if u.busy then txnPhase u.upc else .idle := by
  obtain ⟨m, rfl⟩ := Nat.exists_eq_add_of_lt hm
  rw [Nat.zero_add, execN] at h
  split at h
  · rename_i t ht
    exact (execN_keeps PhaseFollows.exec (exec_phaseFollows hb (.inr hu) ht) h).1
  · cases h
  · cases h

end Transaction
end Sys2Proof.Machine.Proofs
end

section
/-! O53, O54. One frame of a transaction: SHIFT_OUT and the wait for its acknowledgment (44_transaction.md R240). -/

namespace Sys2Proof.Machine.Proofs
open Sys2Proof.Machine.Laws Sys2Proof.Expected

section Frame
variable {a : Addr7} {len : Len} {f : Frame}

/-- The frame of byte `s.shift`, to be sent from `s` on, is acknowledged at sample `k`; then `Drive(SCL, LOW)`
leaves `t` (42_transmit.md R192, R197). -/
structure FrameAcked (s : State) (k : Nat) (t : State) : Prop where
  state : t = { s with
    phase := .ackWait, scl := .low, sdaDir := .input, sdaOut := .high, polls := BitVec.ofNat 8 k, sampled := .low
    upc := t.upc, slave := t.slave, trace := s.trace ++ (shiftTrace s.shift ++ ackedTrace (.sda .high) k)
    time := t.time, draws := t.draws }
  bounds : 1 ≤ k ∧ k ≤ 100
  slave : t.slave = s.slave.drop k
  answers : s.slave.take k <+: List.replicate (k - 1) .high ++ [.low]
  time : s.time + 36 ≤ t.time

/-- The frame `f` of byte `s.shift`, to be sent from `s` on, is not acknowledged: 100 samples are HIGH, and the
transaction ends in `t` (42_transmit.md R197, R199, 44_transaction.md R240). -/
structure FrameTimeout (f : Frame) (s t : State) : Prop where
  state : t = { s with
    phase := .idle, scl := .high, sdaDir := .output, sdaOut := .high, busy := false, ackResult := .timeout
    pollCount := 100#8, txnStatus := t.txnStatus, txnIndex := t.txnIndex, polls := 100#8, sampled := .high
    upc := t.upc, slave := t.slave, trace := s.trace ++ (shiftTrace s.shift ++ timeoutTrace (.sda .high))
    time := t.time, draws := t.draws }
  report : (t.txnStatus, t.txnIndex) =
    match f with
    | .address => (.noAckAddress, 0#16)
    | .payload => (.noAckData, s.idx)
  slave : t.slave = s.slave.drop 100
  answers : s.slave.take 100 <+: List.replicate 100 .high

/-- `v` is `s` after SHIFT_OUT of `s.shift` (42_transmit.md R192). -/
structure ShiftedOut (s v : State) : Prop where
  state : v = { s with
    sdaDir := .output, scl := .low, sdaOut := .high, trace := s.trace ++ shiftTrace s.shift
    time := v.time, draws := v.draws }
  time : s.time + 32 ≤ v.time

/-- `u` after an acknowledged wait's `Drive(SCL, LOW)` (42_transmit.md R197). -/
def ackTaken (u : State) : State :=
  { u with scl := .low, polls := u.polls + 1#8, trace := u.trace ++ [.scl .low] }

theorem exec_ackTaken {u : State} (hu : u.upc = { block := .acked f, pos := 0 }) :
    exec (.writeTxn a len) u = .next (nextFrame len f (ackTaken u)) := by
  rw [exec_eq_runCode, runCode_last (op := { before := [.countPoll], prim := .driveScl .low }) (by rw [hu]; rfl)
    (by rw [hu]; rfl), hu]
  rfl

/-- The end of a transaction whose frame `f` was not acknowledged, in terms of WAIT_ACK's end after a TIMEOUT. -/
def noAckEnd (f : Frame) (u : State) : State :=
  (noAck f).run (setUpc { block := .timeout f, pos := 7 } (timeoutEnd u))

theorem execN_noAckEnd {u : State} (hu : u.upc = { block := .timeout f, pos := 0 }) :
    execN (.writeTxn a len) 8 u = .next (noAckEnd f u) := by
  have hblock := execN_block (i := .writeTxn a len) hu (Nat.zero_lt_succ 7)
  have hstop : runOps (commandCode (.writeTxn a len) (.timeout f)) u =
      runOps stopSeq (runStmts [.countPoll] u) := runOps_enter (ops := stopSeq) [.countPoll] (by decide) u
  rw [blockEnd, hstop, runOps_stopSeq] at hblock
  refine hblock.trans (congrArg _ ?_)
  cases f <;> rfl

theorem frameAcked {s v w u : State} {m : Nat} (hm : m ≤ 99) (hshift : ShiftedOut s v) (hbegun : WaitBegun v w)
    (htook : TookSamples w (List.replicate m .high ++ [.low]) u) : FrameAcked s (m + 1) (ackTaken u) := by
  obtain ⟨hv, hbefore⟩ := hshift
  obtain ⟨hstate, hlatch, hslave, hanswers, htime⟩ := endsAcked hbegun htook
  have hd : v.sdaDir = .output := by rw [hv]
  have hvslave : v.slave = s.slave := by rw [hv]
  have hkept : ackTaken u = { ackedEnd u with busy := v.busy, ackResult := v.ackResult, pollCount := v.pollCount } := by
    rw [ackTaken, ackedEnd, htook.state, hbegun.state]
  rw [hvslave] at hslave hanswers
  refine ⟨?_, by omega, hslave, hanswers, ?_⟩
  · rw [hkept, hstate, hlatch hd, driveHighEvent, if_pos hd, hv]
    simp
  · have hwait : v.time + 4 ≤ (ackTaken u).time := htime
    linarith

theorem frameTimeout {s v w u : State} (hshift : ShiftedOut s v) (hbegun : WaitBegun v w)
    (htook : TookSamples w (List.replicate 100 .high) u) : FrameTimeout f s (noAckEnd f u) := by
  obtain ⟨hv, -⟩ := hshift
  obtain ⟨hstate, hslave, hanswers, -⟩ := endsTimeout hbegun htook
  have hd : v.sdaDir = .output := by rw [hv]
  have hvslave : v.slave = s.slave := by rw [hv]
  rw [hvslave] at hslave hanswers
  have htimeout : noAckEnd f u = { timeoutEnd u with
      txnStatus := (noAckEnd f u).txnStatus, txnIndex := (noAckEnd f u).txnIndex, upc := (noAckEnd f u).upc } := by
    cases f <;> rfl
  have hindex : u.idx = s.idx := by rw [htook.state, hbegun.state, hv]
  refine ⟨?_, ?_, ?_, hanswers⟩
  · rw [htimeout, hstate, driveHighEvent, if_pos hd, hv]
    simp
  · cases f with
    | address => rfl
    | payload => exact congrArg (Prod.mk _) hindex
  · rw [htimeout]
    exact hslave

/-- The byte of a frame, loaded by `cs` after `ops`, and its wait from the first position of its block `b`
(44_transaction.md R240). -/
theorem frame_decided {b : Block} {ops : List MicroOp} {cs : List Stmt} {s : State}
    (hu : s.upc = { block := b, pos := 0 })
    (hcode : writeTxnCode a b = ops ++ enter cs shiftBody ++ waitSeq) (hlast : writeTxnLast len b = afterSample f) :
    ∃ v w m u, ShiftedOut (runStmts cs (runOps ops s)) v ∧ WaitBegun v w ∧ WaitDecided f 99 m w u ∧
      execN (.writeTxn a len) (ops.length + 48 + m) s = .next u := by
  obtain ⟨v, hbody, hv, htime⟩ := runOps_shiftBody (runStmts cs (runOps ops s))
  obtain ⟨w, hhead, hbegun⟩ := runOps_waitSeq v
  have hd : w.sdaDir = .input := by rw [hbegun.state]
  have hpolls : w.polls = 0#8 := by rw [hbegun.state]
  obtain ⟨m, u, hrun, hdecided, -⟩ := wait_decided (hasWait_writeTxn a len f) hd (n := 99) (by rw [hpolls]; rfl)
  have hcode' : commandCode (.writeTxn a len) b = ops ++ enter cs shiftBody ++ waitSeq := hcode
  have hlast' : commandLast (.writeTxn a len) b = afterSample f := hlast
  have hlength : (ops ++ enter cs shiftBody ++ waitSeq).length = ops.length + 48 := by
    rw [List.length_append, List.length_append, enter_length]
    rfl
  have hblock := execN_block (i := .writeTxn a len) hu (by rw [hcode', hlength]; omega)
  rw [blockEnd, hlast', afterSample_setUpc, hcode', hlength, runOps_append, runOps_append,
    runOps_enter cs (by decide), hbody, hhead] at hblock
  exact ⟨v, w, m, u, ⟨hv, htime⟩, hbegun, hdecided, (execN_then hblock).trans hrun⟩

/-- A frame is acknowledged, and the transaction decides on the next one; or it ends the transaction. -/
theorem frame_ends {b : Block} {ops : List MicroOp} {cs : List Stmt} {s : State}
    (hu : s.upc = { block := b, pos := 0 })
    (hcode : writeTxnCode a b = ops ++ enter cs shiftBody ++ waitSeq) (hlast : writeTxnLast len b = afterSample f) :
    (∃ k t, FrameAcked (runStmts cs (runOps ops s)) k t ∧
      execN (.writeTxn a len) (ops.length + (48 + k)) s = .next (nextFrame len f t)) ∨
    (∃ t, FrameTimeout f (runStmts cs (runOps ops s)) t ∧
      execN (.writeTxn a len) (ops.length + (42 + 113)) s = .next t) := by
  obtain ⟨v, w, m, u, hshift, hbegun, ⟨hm, hu', htook⟩ | ⟨rfl, hu', htook⟩, hrun⟩ := frame_decided hu hcode hlast
  · exact .inl ⟨m + 1, _, frameAcked hm hshift hbegun htook, by
      rw [← Nat.add_assoc, ← Nat.add_assoc]
      exact execN_succ hrun (exec_ackTaken hu')⟩
  · exact .inr ⟨_, frameTimeout hshift hbegun htook, (execN_then hrun).trans (execN_noAckEnd hu')⟩

end Frame
end Sys2Proof.Machine.Proofs
end

section
/-! O53, O54. A transaction frame by frame, and how it ends (44_transaction.md R240, R242, R245). -/

namespace Sys2Proof.Machine.Proofs
open Sys2Proof.Machine.Laws Sys2Proof.Expected

/-! ### The ends of a transaction -/

/-- The frames of the bytes `vs`, to be sent from `s` on, are all acknowledged, frame `i` at its sample `ks[i]`,
and after `n` primitives the transaction ends OK in `t` (44_transaction.md R240, R245). With no frame left the
acknowledgment before `s` is the last one. -/
structure EndsOk (s : State) (vs : List Byte) (ks : List Nat) (n : Nat) (t : State) : Prop where
  length : ks.length = vs.length
  count : n = (ks.map (48 + ·)).sum + 8
  trace : t.trace = s.trace ++ (framesTrace (vs.zip ks) ++ stopTrace)
  report : t.txnStatus = .ok ∧ t.txnIndex = 0#16 ∧ t.ackResult = .acked
  pollCount : t.pollCount.toNat = ks.getLastD s.polls.toNat
  time : s.time + ((36 * vs.length + 10 : Nat) : Rat) ≤ t.time

/-- Of the frames of the bytes `vs`, to be sent from `s` on, as many as `ks` holds are acknowledged and the one
after them is not, and after `n` primitives the transaction ends NO_ACK in `t`; the first of `vs` is frame `j` of the
transaction, its address frame being frame 0 (44_transaction.md R240, R242, R245). -/
structure EndsNoAck (s : State) (j : Nat) (vs : List Byte) (ks : List Nat) (n : Nat) (t : State) : Prop where
  count : n = (ks.map (48 + ·)).sum + (42 + 113)
  trace : ∃ v, vs[ks.length]? = some v ∧
    t.trace = s.trace ++ (framesTrace (vs.zip ks) ++ (shiftTrace v ++ timeoutTrace (.sda .high)))
  ack : t.ackResult = .timeout ∧ t.pollCount = 100#8
  address : j + ks.length = 0 → t.txnStatus = .noAckAddress ∧ t.txnIndex = 0#16
  payload : j + ks.length ≠ 0 → t.txnStatus = .noAckData ∧ t.txnIndex.toNat + 1 = j + ks.length

/-- A transaction whose frames from frame `j` on are those of the bytes `vs`, to be sent from `s` on, ends in `t` after
`n` primitives (44_transaction.md R240, R243). -/
structure FramesEnd (s : State) (j : Nat) (vs : List Byte) (ks : List Nat) (n : Nat) (t : State) : Prop where
  state : t = { s with
    phase := .idle, sdaDir := .output, scl := .high, sdaOut := .high, busy := false
    ackResult := t.ackResult, pollCount := t.pollCount, txnStatus := t.txnStatus, txnIndex := t.txnIndex
    shift := t.shift, polls := t.polls, idx := t.idx, upc := t.upc, sampled := t.sampled, slave := t.slave
    trace := t.trace, time := t.time, draws := t.draws }
  bounds : ∀ k ∈ ks, 1 ≤ k ∧ k ≤ 100
  outcome : EndsOk s vs ks n t ∨ EndsNoAck s j vs ks n t

section Ends
variable {s t u : State} {j n k : Nat} {vs : List Byte} {ks : List Nat}

theorem EndsOk.cons (hack : FrameAcked s k t) (h : EndsOk t vs ks n u) :
    EndsOk s (s.shift :: vs) (k :: ks) (48 + k + n) u := by
  obtain ⟨hlength, hcount, htrace, hreport, hpolls, htime⟩ := h
  obtain ⟨hk1, hk100⟩ := hack.bounds
  have hpolled : t.polls.toNat = k := by
    rw [hack.state]
    exact Nat.mod_eq_of_lt (by omega)
  refine ⟨congrArg Nat.succ hlength, ?_, ?_, hreport, ?_, ?_⟩
  · rw [hcount, List.map_cons, List.sum_cons, Nat.add_assoc, Nat.add_assoc, Nat.add_assoc]
  · rw [htrace, hack.state]
    simp [framesTrace]
  · rw [hpolls, hpolled, List.getLastD_cons]
  · have hframe := hack.time
    push_cast [List.length_cons] at htime ⊢
    linarith

theorem EndsNoAck.cons (hack : FrameAcked s k t) (h : EndsNoAck t (j + 1) vs ks n u) :
    EndsNoAck s j (s.shift :: vs) (k :: ks) (48 + k + n) u := by
  obtain ⟨hcount, ⟨v, hv, htrace⟩, hreport, haddress, hpayload⟩ := h
  have hframe : j + (k :: ks).length = j + 1 + ks.length := by rw [List.length_cons]; omega
  refine ⟨?_, ⟨v, hv, ?_⟩, hreport, by rwa [hframe], by rwa [hframe]⟩
  · rw [hcount, List.map_cons, List.sum_cons, Nat.add_assoc, Nat.add_assoc, Nat.add_assoc]
  · rw [htrace, hack.state]
    simp [framesTrace]

/-- An acknowledged frame, and the frames after it. -/
theorem FramesEnd.cons (hack : FrameAcked s k t) (h : FramesEnd t (j + 1) vs ks n u) :
    FramesEnd s j (s.shift :: vs) (k :: ks) (48 + k + n) u := by
  obtain ⟨hstate, hbounds, hout⟩ := h
  refine ⟨?_, List.forall_mem_cons.mpr ⟨hack.bounds, hbounds⟩, hout.imp (.cons hack) (.cons hack)⟩
  rw [hack.state] at hstate
  exact hstate

/-- A frame that is not acknowledged is the last one. -/
theorem framesEnd_timeout {f : Frame} (h : FrameTimeout f s t) (vs : List Byte) :
    FramesEnd s (nextIdx s f) (s.shift :: vs) [] (42 + 113) t := by
  obtain ⟨hstate, hreport, -, -⟩ := h
  have htrace : t.trace = s.trace ++ ([] ++ (shiftTrace s.shift ++ timeoutTrace (.sda .high))) :=
    congrArg State.trace hstate
  have hack : t.ackResult = .timeout ∧ t.pollCount = 100#8 :=
    ⟨congrArg State.ackResult hstate, congrArg State.pollCount hstate⟩
  refine ⟨?_, nofun, .inr ⟨rfl, ⟨s.shift, rfl, htrace⟩, hack, ?_, ?_⟩⟩
  · rw [hstate]
  · intro h0
    cases f with
    | address => exact Prod.mk.inj hreport
    | payload => cases h0
  · intro h0
    cases f with
    | address => exact absurd rfl h0
    | payload =>
      obtain ⟨hstatus, hindex⟩ := Prod.mk.inj hreport
      exact ⟨hstatus, by rw [hindex]; rfl⟩

end Ends

/-! ### The last STOP_SEQ -/

/-- The statements after the acknowledgment of the last frame `f` (44_transaction.md R240). -/
theorem ackReported_eq (f : Frame) (s : State) :
    ∃ idx u, runStmts [.ackResult .acked, idxStmt f] (goto (.close f) s) =
      { s with ackResult := .acked, pollCount := s.polls, idx := idx, upc := u } := by
  cases f <;> exact ⟨_, _, rfl⟩

/-- With no frame left the transaction ends OK (44_transaction.md R240). -/
theorem close_ends {a : Addr7} {len : Len} {f : Frame} (s : State) (j : Nat) :
    ∃ t, execN (.writeTxn a len) 8 (goto (.close f) s) = .next t ∧ FramesEnd s j [] [] 8 t := by
  have hblock := execN_block (i := .writeTxn a len) (b := .close f) (s := goto (.close f) s) rfl (Nat.zero_lt_succ 7)
  have hstop : runOps (commandCode (.writeTxn a len) (.close f)) (goto (.close f) s) =
      runOps stopSeq (runStmts [.ackResult .acked, idxStmt f] (goto (.close f) s)) :=
    runOps_enter (ops := stopSeq) [.ackResult .acked, idxStmt f] (by decide) _
  rw [blockEnd, hstop, runOps_stopSeq] at hblock
  obtain ⟨idx, u, hreported⟩ := ackReported_eq f s
  rw [hreported] at hblock
  refine ⟨_, hblock, rfl, nofun, .inl ⟨rfl, rfl, rfl, ⟨rfl, rfl, rfl⟩, rfl, ?_⟩⟩
  exact add_le_add_right (ten_le_stopSeqTime s.draws) s.time

/-! ### A payload frame -/

/-- `s` with the acknowledgment of frame `f` reported and the payload byte after it loaded (44_transaction.md R240). -/
def payloadLoaded (f : Frame) (s : State) : State :=
  runStmts [.ackResult .acked, idxStmt f, .phase .data, .loadPayload] (goto (.payload f) s)

theorem payloadLoaded_idx {f : Frame} {s : State} {len : Len} (h : nextIdx s f < len.toNat) :
    (payloadLoaded f s).idx.toNat = nextIdx s f := by
  cases f with
  | address => rfl
  | payload => exact BitVec.toNat_add_of_lt (Nat.lt_trans h len.isLt)

theorem payloadLoaded_shift {f : Frame} {s : State} {len : Len} (h : nextIdx s f < len.toNat) :
    (payloadLoaded f s).shift = (Memory.read s.txbuf (nextIdx s f)).getD (Config.drawByte s.draws) := by
  rw [← payloadLoaded_idx h]
  cases f <;> rfl

theorem payloadLoaded_eq (f : Frame) (s : State) :
    ∃ v idx u d, payloadLoaded f s = { s with
      phase := .data, ackResult := .acked, pollCount := s.polls, shift := v, idx := idx, upc := u, draws := d } := by
  cases f <;> exact ⟨_, _, _, _, rfl⟩

theorem payloadLoaded_slave (f : Frame) (s : State) : (payloadLoaded f s).slave = s.slave := runStmts_slave _ _

/-- The load of a payload byte comes before its frame's first event. -/
theorem FramesEnd.of_payloadLoaded {f : Frame} {s t : State} {j n : Nat} {vs : List Byte} {ks : List Nat}
    (h : FramesEnd (payloadLoaded f s) j vs ks n t) : FramesEnd s j vs ks n t := by
  obtain ⟨v, idx, u, d, hload⟩ := payloadLoaded_eq f s
  rw [hload] at h
  obtain ⟨hstate, hbounds, hout⟩ := h
  exact ⟨hstate, hbounds, hout.imp (fun ⟨hl, hn, htr, hr, hp, ht⟩ => ⟨hl, hn, htr, hr, hp, ht⟩)
    (fun ⟨hn, htr, hr, ha, hp⟩ => ⟨hn, htr, hr, ha, hp⟩)⟩

/-! ### The payload of TXBUF -/

/-- The bytes `vs` are those TXBUF holds from index `i` on, where it holds any (20_memory.md R94). -/
def FromTxbuf (m : List Host.Cell) (i : Nat) (vs : List Byte) : Prop :=
  ∀ j b, j < vs.length → Memory.read m (i + j) = some b → vs[j]? = some b

theorem FromTxbuf.cons {m : List Host.Cell} {i : Nat} {v d : Byte} {vs : List Byte}
    (hv : v = (Memory.read m i).getD d) (h : FromTxbuf m (i + 1) vs) : FromTxbuf m i (v :: vs) := by
  intro j b hj hb
  cases j with
  | zero =>
    rw [Nat.add_zero] at hb
    rw [hv, hb]
    rfl
  | succ j => exact h j b (Nat.lt_of_succ_lt_succ hj) (by rwa [Nat.add_right_comm i 1 j])

theorem exists_fromTxbuf (m : List Host.Cell) (i n : Nat) : ∃ vs, vs.length = n ∧ FromTxbuf m i vs := by
  induction n generalizing i with
  | zero => exact ⟨[], rfl, nofun⟩
  | succ n ih =>
    obtain ⟨vs, hlength, hvs⟩ := ih (i + 1)
    exact ⟨(Memory.read m i).getD 0#8 :: vs, congrArg Nat.succ hlength, .cons rfl hvs⟩

/-! ### All frames -/

section Transaction
variable {a : Addr7} {len : Len}

/-- A payload frame is acknowledged or ends the transaction. -/
theorem payload_ends (f : Frame) (s : State) :
    (∃ k t, FrameAcked (payloadLoaded f s) k t ∧
      execN (.writeTxn a len) (48 + k) (goto (.payload f) s) = .next (nextFrame len .payload t)) ∨
    (∃ t, FrameTimeout .payload (payloadLoaded f s) t ∧
      execN (.writeTxn a len) (42 + 113) (goto (.payload f) s) = .next t) := by
  have h := frame_ends (a := a) (len := len) (f := .payload) (b := .payload f) (ops := [])
    (cs := [.ackResult .acked, idxStmt f, .phase .data, .loadPayload]) (s := goto (.payload f) s) rfl rfl rfl
  simpa only [payloadLoaded, List.length_nil, Nat.zero_add, runOps_nil] using h

theorem FrameAcked.nextIdx {f : Frame} {s t : State} {k : Nat} (h : FrameAcked (payloadLoaded f s) k t)
    (hlt : nextIdx s f < len.toNat) : nextIdx t .payload = nextIdx s f + 1 := by
  rw [Machine.nextIdx, h.state, ← payloadLoaded_idx hlt]

theorem FrameAcked.payload_txbuf {f : Frame} {s t : State} {k : Nat} (h : FrameAcked (payloadLoaded f s) k t) :
    t.txbuf = s.txbuf := by
  rw [h.state]
  exact runStmts_txbuf _ _

/-- An acknowledged payload frame, and the frames after it. -/
theorem FramesEnd.payload_cons {f : Frame} {s t u : State} {k n : Nat} {vs : List Byte} {ks : List Nat}
    (hlt : nextIdx s f < len.toNat) (hack : FrameAcked (payloadLoaded f s) k t)
    (h : FramesEnd t (nextIdx t .payload + 1) vs ks n u) :
    FramesEnd s (nextIdx s f + 1) ((payloadLoaded f s).shift :: vs) (k :: ks) (48 + k + n) u := by
  rw [hack.nextIdx hlt] at h
  exact (h.cons hack).of_payloadLoaded

/-- With `n` payload frames left after frame `f`, the transaction ends after them, or at the first of them that is not
acknowledged (44_transaction.md R240, R242). -/
theorem nextFrame_ends {n : Nat} {f : Frame} {s : State} (hn : nextIdx s f + n = len.toNat) :
    ∃ vs ks p t, vs.length = n ∧ FromTxbuf s.txbuf (nextIdx s f) vs ∧
      execN (.writeTxn a len) p (nextFrame len f s) = .next t ∧ FramesEnd s (nextIdx s f + 1) vs ks p t := by
  induction n generalizing f s with
  | zero =>
    rw [nextFrame, if_neg (by omega)]
    obtain ⟨t, hrun, hends⟩ := close_ends (a := a) (len := len) (f := f) s (nextIdx s f + 1)
    exact ⟨[], [], 8, t, rfl, nofun, hrun, hends⟩
  | succ n ih =>
    have hlt : nextIdx s f < len.toNat := by omega
    rw [nextFrame, if_pos hlt]
    rcases payload_ends (a := a) (len := len) f s with ⟨k, t, hack, hrun⟩ | ⟨t, htimeout, hrun⟩
    · have hidx := hack.nextIdx hlt
      obtain ⟨vs, ks, p, u, hlength, hvs, hrest, hends⟩ := ih (f := .payload) (s := t) (by omega)
      rw [hack.payload_txbuf, hidx] at hvs
      exact ⟨_ :: vs, k :: ks, _, u, congrArg Nat.succ hlength, .cons (payloadLoaded_shift hlt) hvs,
        (execN_then hrun).trans hrest, hends.payload_cons hlt hack⟩
    · obtain ⟨vs, hlength, hvs⟩ := exists_fromTxbuf s.txbuf (nextIdx s f + 1) n
      refine ⟨_ :: vs, [], _, t, congrArg Nat.succ hlength, .cons (payloadLoaded_shift hlt) hvs, hrun, ?_⟩
      have hends := (framesEnd_timeout htimeout vs).of_payloadLoaded
      rwa [nextIdx, payloadLoaded_idx hlt] at hends

end Transaction

/-! ### The address frame -/

/-- `s` after START_SEQ, the address frame loaded (44_transaction.md R240). -/
def addressLoaded (a : Addr7) (s : State) : State :=
  runStmts [.phase .address, .loadShift (addressFrame a .write)] (runOps (enter [.phase .start] startSeq) s)

theorem addressLoaded_eq (a : Addr7) (s : State) :
    addressLoaded a s = { s with
      phase := .address, shift := a ++ 0#1, sdaDir := .output, scl := .low, sdaOut := .low
      trace := s.trace ++ startTrace, time := s.time + (4 + (Config.excess s.draws : Rat)), draws := s.draws + 1 } := by
  rw [addressLoaded, runOps_enter _ (by decide), runOps_startSeq, addressFrame_eq_append]
  rfl

theorem addressLoaded_slave (a : Addr7) (s : State) : (addressLoaded a s).slave = s.slave := by rw [addressLoaded_eq]

section Transaction
variable {a : Addr7} {len : Len} {s : State} (hu : s.upc = { block := .main, pos := 0 })
include hu

/-- The address frame is acknowledged or ends the transaction. -/
theorem address_ends :
    (∃ k t, FrameAcked (addressLoaded a s) k t ∧
      execN (.writeTxn a len) (6 + (48 + k)) s = .next (nextFrame len .address t)) ∨
    (∃ t, FrameTimeout .address (addressLoaded a s) t ∧ execN (.writeTxn a len) (6 + (42 + 113)) s = .next t) :=
  frame_ends hu rfl rfl

/-- WRITE_TXN from start to end (44_transaction.md R240). -/
theorem writeTxn_ends :
    ∃ vs ks p t, vs.length = len.toNat ∧ FromTxbuf s.txbuf 0 vs ∧ execN (.writeTxn a len) (6 + p) s = .next t ∧
      FramesEnd (addressLoaded a s) 0 ((a ++ 0#1) :: vs) ks p t := by
  have hshift : a ++ 0#1 = (addressLoaded a s).shift := by rw [addressLoaded_eq]
  rw [hshift]
  rcases address_ends (a := a) (len := len) hu with ⟨k, t, hack, hrun⟩ | ⟨t, htimeout, hrun⟩
  · obtain ⟨vs, ks, p, u, hlength, hvs, hrest, hends⟩ :=
      nextFrame_ends (a := a) (len := len) (f := .address) (s := t) (Nat.zero_add _)
    have hbuf : t.txbuf = s.txbuf := by rw [hack.state, addressLoaded_eq]
    rw [hbuf] at hvs
    exact ⟨vs, k :: ks, _, u, hlength, hvs, by
      rw [← Nat.add_assoc]
      exact (execN_then hrun).trans hrest, hends.cons hack⟩
  · obtain ⟨vs, hlength, hvs⟩ := exists_fromTxbuf s.txbuf 0 len.toNat
    exact ⟨vs, [], _, t, hlength, hvs, hrun, framesEnd_timeout htimeout vs⟩

end Transaction

/-- The last of the engine steps of a run. -/
theorem execN_last {i : Instr} {n : Nat} {s t : State} (h : execN i (n + 1) s = .next t) :
    ∃ u, execN i n s = .next u ∧ exec i u = .next t := by
  rw [execN_add] at h
  split at h
  · rename_i u hu
    rw [execN] at h
    split at h
    · rename_i v hv
      exact ⟨u, hu, hv.trans h⟩
    · cases h
    · cases h
  · cases h
  · cases h

/-- Settles O53: frame by frame, each acknowledged or the last one; the phase along the run is read off the position. -/
theorem writeTxnOutcome : Obligations.WriteTxnOutcome := by
  intro a len s hu
  refine ⟨?_, fun hb m u hm h => execN_phaseFollows hu hb hm h⟩
  obtain ⟨vs, ks, p, t, hlength, hvs, hrun, hstate, hbounds, hout⟩ := writeTxn_ends (a := a) (len := len) hu
  rw [addressLoaded_eq] at hstate hout
  obtain ⟨u, hbefore, hlast⟩ := execN_last (n := 5 + p) (by rwa [Nat.add_right_comm])
  refine ⟨vs, ks, 5 + p, u, t, hlength, fun j b hj => ?_, hbounds, hbefore, hlast, hstate, ?_⟩
  · simpa using hvs j b (hlength.symm ▸ hj)
  rcases hout with ⟨hks, hcount, htrace, hreport, hpolls, htime⟩ |
    ⟨hcount, ⟨v, hv, htrace⟩, hack, haddress, hpayload⟩
  · obtain ⟨hstatus, hindex, hack⟩ := hreport
    have hne : ks ≠ [] := List.ne_nil_of_length_eq_add_one hks
    have hlast : ks.getLast? = some t.pollCount.toNat := by
      rw [hpolls, List.getLastD_eq_getLast?, List.getLast?_eq_some_getLast hne, Option.getD_some]
    refine .inl ⟨by simpa [hlength] using hks, by omega, ?_, hstatus, hindex, hack, hlast, ?_⟩
    · simpa only [List.append_assoc] using htrace
    · have hexcess : (0 : Rat) ≤ (Config.excess s.draws : Rat) := (Config.excess s.draws).coe_nonneg
      rw [List.length_cons, hlength] at htime
      push_cast at htime ⊢
      linarith
  · obtain ⟨hack, hcount100⟩ := hack
    rw [Nat.zero_add] at haddress hpayload
    refine .inr ⟨v, hv, by omega, ?_, hack, hcount100, haddress, fun hne => ?_⟩
    · simpa only [List.append_assoc] using htrace
    · obtain ⟨hstatus, hindex⟩ := hpayload hne
      exact ⟨hstatus, by omega⟩

end Sys2Proof.Machine.Proofs
end

section
/-! O54. What the slave's pending answers make of a frame, and the transaction its second payload byte ends
(44_transaction.md R244). -/

namespace Sys2Proof.Machine.Proofs
open Sys2Proof.Machine.Laws Sys2Proof.Expected

/-- The pending answers of a slave that acknowledges at its answer `k`. -/
def Acknowledges (k : Nat) (rest l : List Level) : Prop :=
  1 ≤ k ∧ k ≤ 100 ∧ l = List.replicate (k - 1) .high ++ .low :: rest

theorem Acknowledges.high {k j : Nat} {rest l : List Level} (h : Acknowledges k rest l) (hj : j < k - 1) :
    l[j]? = some .high := by
  obtain ⟨-, -, rfl⟩ := h
  rw [List.getElem?_append_left (by simpa using hj), List.getElem?_replicate_of_lt hj]

theorem Acknowledges.low {k : Nat} {rest l : List Level} (h : Acknowledges k rest l) : l[k - 1]? = some .low := by
  obtain ⟨-, -, rfl⟩ := h
  simp

theorem Acknowledges.drop {k : Nat} {rest l : List Level} (h : Acknowledges k rest l) : l.drop k = rest := by
  obtain ⟨hk, -, rfl⟩ := h
  obtain ⟨k, rfl⟩ := Nat.exists_eq_add_of_lt hk
  simp [List.drop_append]

/-- A frame is acknowledged at the first LOW answer. -/
theorem FrameAcked.sample_eq {s t : State} {m k : Nat} {rest : List Level} (h : FrameAcked s m t)
    (hslave : Acknowledges k rest s.slave) : m = k := by
  obtain ⟨hm, -⟩ := h.bounds
  have hk := hslave.1
  have hanswers : s.slave.take (m - 1 + 1) <+: List.replicate (m - 1) .high ++ [.low] := by
    rw [Nat.sub_add_cancel hm]
    exact h.answers
  rcases Nat.lt_trichotomy (m - 1) (k - 1) with hlt | heq | hlt
  · cases acknowledging_answer hanswers (hslave.high hlt)
  · omega
  · cases earlier_answer hanswers hlt hslave.low

/-- A LOW answer among the first 100 leaves no TIMEOUT. -/
theorem FrameTimeout.not_acknowledges {f : Frame} {s t : State} {k : Nat} {rest : List Level} (h : FrameTimeout f s t)
    (hslave : Acknowledges k rest s.slave) : False := by
  have hk100 := hslave.2.1
  have hsample := getElem?_of_answers h.answers (j := k - 1) (by omega) hslave.low
  rw [List.getElem?_replicate_of_lt (by omega)] at hsample
  cases hsample

/-- A HIGH answer acknowledges no frame. -/
theorem FrameAcked.not_silent {s t : State} {k : Nat} {rest : List Level} (h : FrameAcked s k t)
    (hslave : s.slave = List.replicate 100 .high ++ rest) : False := by
  obtain ⟨hk, hk100⟩ := h.bounds
  have hanswers : s.slave.take (k - 1 + 1) <+: List.replicate (k - 1) .high ++ [.low] := by
    rw [Nat.sub_add_cancel hk]
    exact h.answers
  have hhigh : s.slave[k - 1]? = some .high := by
    rw [hslave, List.getElem?_append_left (by simp; omega), List.getElem?_replicate_of_lt (by omega)]
  cases acknowledging_answer hanswers hhigh

section Transaction
variable {a : Addr7} {len : Len} {f : Frame} {s : State} {k : Nat} {rest : List Level}

theorem address_acked (hu : s.upc = { block := .main, pos := 0 }) (hslave : Acknowledges k rest s.slave) :
    ∃ t, FrameAcked (addressLoaded a s) k t ∧ t.slave = rest ∧
      execN (.writeTxn a len) (6 + (48 + k)) s = .next (nextFrame len .address t) := by
  rw [← addressLoaded_slave a s] at hslave
  rcases address_ends (a := a) (len := len) hu with ⟨m, t, hack, hrun⟩ | ⟨t, htimeout, -⟩
  · obtain rfl := hack.sample_eq hslave
    exact ⟨t, hack, hack.slave.trans hslave.drop, hrun⟩
  · exact absurd hslave htimeout.not_acknowledges

theorem payload_acked (hlt : nextIdx s f < len.toNat) (hslave : Acknowledges k rest s.slave) :
    ∃ t, FrameAcked (payloadLoaded f s) k t ∧ t.slave = rest ∧
      execN (.writeTxn a len) (48 + k) (nextFrame len f s) = .next (nextFrame len .payload t) := by
  rw [← payloadLoaded_slave f s] at hslave
  rw [nextFrame, if_pos hlt]
  rcases payload_ends (a := a) (len := len) f s with ⟨m, t, hack, hrun⟩ | ⟨t, htimeout, -⟩
  · obtain rfl := hack.sample_eq hslave
    exact ⟨t, hack, hack.slave.trans hslave.drop, hrun⟩
  · exact absurd hslave htimeout.not_acknowledges

theorem payload_timeout (hlt : nextIdx s f < len.toNat) (hslave : s.slave = List.replicate 100 .high ++ rest) :
    ∃ t, FrameTimeout .payload (payloadLoaded f s) t ∧ t.slave = rest ∧
      execN (.writeTxn a len) (42 + 113) (nextFrame len f s) = .next t := by
  rw [← payloadLoaded_slave f s] at hslave
  rw [nextFrame, if_pos hlt]
  rcases payload_ends (a := a) (len := len) f s with ⟨m, t, hack, -⟩ | ⟨t, htimeout, hrun⟩
  · exact absurd hslave hack.not_silent
  · exact ⟨t, htimeout, htimeout.slave.trans (by simp [hslave]), hrun⟩

/-- Two frames acknowledged at their samples `k0` and `k1`, and a third one that is not, end the transaction; the bytes
of the payload frames are those TXBUF holds (44_transaction.md R240, R242). -/
theorem framesEnd_thirdFrame {b0 b1 : Byte} {k0 k1 : Nat} (hu : s.upc = { block := .main, pos := 0 })
    (hlen : 1 < len.toNat) (hb0 : Memory.read s.txbuf 0 = some b0) (hb1 : Memory.read s.txbuf 1 = some b1)
    {answers : List Level} (hslave : Acknowledges k0 answers s.slave)
    (hanswers : Acknowledges k1 (List.replicate 100 .high ++ rest) answers) :
    ∃ t, execN (.writeTxn a len) (6 + (48 + k0) + (48 + k1) + (42 + 113)) s = .next t ∧ t.slave = rest ∧
      FramesEnd (addressLoaded a s) 0 [a ++ 0#1, b0, b1] [k0, k1] (48 + k0 + (48 + k1 + (42 + 113))) t := by
  obtain ⟨t0, hack0, hslave0, hrun0⟩ := address_acked (a := a) (len := len) hu hslave
  have hlt0 : nextIdx t0 .address < len.toNat := Nat.lt_of_succ_lt hlen
  obtain ⟨t1, hack1, hslave1, hrun1⟩ := payload_acked (a := a) hlt0 (hslave0.symm ▸ hanswers)
  have hidx : nextIdx t1 .payload = 1 := hack1.nextIdx hlt0
  have hlt1 : nextIdx t1 .payload < len.toNat := hidx.symm ▸ hlen
  obtain ⟨t, htimeout, hrest, hrun⟩ := payload_timeout (a := a) hlt1 hslave1
  refine ⟨t, ?_, hrest, ?_⟩
  · rw [execN_then ((execN_then hrun0).trans hrun1)]
    exact hrun
  · have hbuf0 : t0.txbuf = s.txbuf := by rw [hack0.state, addressLoaded_eq]
    have hbyte0 : (payloadLoaded .address t0).shift = b0 := by
      rw [payloadLoaded_shift hlt0, hbuf0]
      exact congrArg (Option.getD · _) hb0
    have hbyte1 : (payloadLoaded .payload t1).shift = b1 := by
      rw [payloadLoaded_shift hlt1, hidx, hack1.payload_txbuf, hbuf0, hb1, Option.getD_some]
    have hends := framesEnd_timeout htimeout []
    rw [nextIdx, payloadLoaded_idx hlt1] at hends
    have hall := (hends.of_payloadLoaded.payload_cons hlt0 hack1).cons (j := 0) hack0
    rwa [hbyte0, hbyte1, show (addressLoaded a s).shift = a ++ 0#1 by rw [addressLoaded_eq]] at hall

end Transaction

/-- Settles O54: the frames of the address and of `b0` are acknowledged, that of `b1` is not and is the last one. -/
theorem writeTxnAbort : Obligations.WriteTxnAbort := by
  intro a b0 b1 b2 k0 k1 rest s hu hk0 hk0' hk1 hk1' hb0 hb1 _ hslave
  simp only [List.append_assoc, List.singleton_append] at hslave
  obtain ⟨t, hrun, hrest, hstate, -, hout⟩ := framesEnd_thirdFrame (a := a) (len := 3#16) hu (by decide) hb0 hb1
    ⟨hk0, hk0', hslave⟩ ⟨hk1, hk1', rfl⟩
  rw [addressLoaded_eq] at hstate hout
  have hstopped : Stopped t := by rw [hstate]; exact ⟨rfl, rfl, rfl, rfl⟩
  rcases hout with ⟨hlength, -⟩ | ⟨-, ⟨v, hv, htrace⟩, -, -, hreport⟩
  · cases hlength
  · cases hv
    obtain ⟨hstatus, hindex⟩ := hreport nofun
    refine ⟨t, ?_, congrArg State.busy hstate, hstatus, BitVec.eq_of_toNat_eq (Nat.succ.inj hindex), hstopped,
      busIdle_of_stopped hstopped, hrest, ?_⟩
    · rw [← hrun]
      congr 1
      omega
    · rw [htrace]
      simp [framesTrace]

end Sys2Proof.Machine.Proofs
end

section
/-! O45. SDA is written only while it is driven: each block of pseudocode drives SDA before it writes it, but for the
head of a wait, which leaves the direction as it finds it (42_transmit.md R197, 70_reset_and_hazards.md R305). -/

namespace Sys2Proof.Machine.Proofs
open Sys2Proof.Machine.Laws Sys2Proof.Expected

/-! ### Writes of SDA in the pseudocode -/

/-- `Drive(SDA, v)`, of a fixed level or of a bit of `s.shift` (40_bit_sequencer.md R144). -/
def writesSda : Prim → Bool
  | .driveSda _ | .driveSdaBit _ => true
  | .setDir _ | .driveScl _ | .delay _ | .sample => false

/-- Pseudocode begun with SDA in direction `d` writes SDA only as an output. -/
def writesDriven : Dir → List MicroOp → Bool
  | _, [] => true
  | d, op :: ops => (!writesSda op.prim || d == .output) && writesDriven (dirAfter op.prim d) ops

theorem writesDriven_cons {d : Dir} {op : MicroOp} {ops : List MicroOp} :
    writesDriven d (op :: ops) = true ↔
      (writesSda op.prim = true → d = .output) ∧ writesDriven (dirAfter op.prim d) ops = true := by
  simp [writesDriven, imp_iff_not_or]

/-- A write of SDA leaves its direction. -/
theorem dirAfter_of_writesSda {p : Prim} (h : writesSda p = true) (d : Dir) : dirAfter p d = d := by
  cases p with
  | driveSda | driveSdaBit => rfl
  | setDir | driveScl | delay | sample => cases h

/-- The one block that may write SDA as it finds it is WAIT_ACK's main block. -/
theorem commandCode_writesDriven {i : Instr} {b : Block} {d : Dir} (h : i = .waitAck → b = .main → d = .output) :
    writesDriven d (commandCode i b) = true := by
  by_cases hb : b = .main
  · subst hb
    cases i with
    | waitAck => rw [h rfl rfl]; rfl
    | init | start | stop | sendAddr | sendByte | ack | readByte | writeTxn => cases d <;> rfl
  · rcases commandCode_eq_writeTxnCode i hb with hc | ⟨a, hc⟩ <;> rw [hc]
    · rfl
    · cases b with
      | main => exact absurd rfl hb
      | poll | acked | timeout | payload | close => cases d <;> rfl

/-- After its one write of SDA the head of a wait writes SDA no more. -/
theorem waitAckCode_writesDriven (d : Dir) : writesDriven d ((commandCode .waitAck .main).drop 3) = true := by
  cases d <;> rfl

/-! ### Along a run of the engine alone -/

/-- From here to the end of its block the command writes SDA only while it drives it. -/
def WritesDriven (i : Instr) (s : State) : Prop :=
  writesDriven s.sdaDir ((commandCode i s.upc.block).drop s.upc.pos) = true

theorem writesDriven_blockStart {i : Instr} {b : Block} {s : State} (hu : s.upc = { block := b, pos := 0 })
    (h : i = .waitAck → b = .main → s.sdaDir = .output) : WritesDriven i s := by
  rw [WritesDriven, hu]
  exact commandCode_writesDriven h

/-- What is known at a primitive, of itself and of the rest of its block. -/
theorem WritesDriven.at_op {i : Instr} {s : State} {op : MicroOp} (h : WritesDriven i s)
    (hop : (commandCode i s.upc.block)[s.upc.pos]? = some op) :
    (writesSda op.prim = true → s.sdaDir = .output) ∧
      writesDriven (op.run s).sdaDir ((commandCode i s.upc.block).drop (s.upc.pos + 1)) = true := by
  obtain ⟨hlt, hget⟩ := List.getElem?_eq_some_iff.mp hop
  rw [WritesDriven, List.drop_eq_getElem_cons hlt, hget] at h
  rw [op_sdaDir]
  exact writesDriven_cons.mp h

/-- At the last primitive of a block, done once more as after a completion, SDA is still driven where it is written. -/
theorem WritesDriven.again {i : Instr} {s : State} {op : MicroOp} (h : WritesDriven i s)
    (hop : (commandCode i s.upc.block)[s.upc.pos]? = some op)
    (hend : s.upc.pos + 1 = (commandCode i s.upc.block).length) : WritesDriven i (op.run s) := by
  obtain ⟨hlt, hget⟩ := List.getElem?_eq_some_iff.mp hop
  rw [WritesDriven, op_upc, op_sdaDir, List.drop_eq_getElem_cons hlt, hget, List.drop_eq_nil_of_le hend.ge,
    writesDriven_cons]
  refine ⟨fun hw => ?_, rfl⟩
  rw [dirAfter_of_writesSda hw]
  exact (h.at_op hop).1 hw

/-- No decision leads back into a main block. -/
theorem exec_writesDriven {i : Instr} {s t : State} (hs : WritesDriven i s) (h : exec i s = .next t) :
    WritesDriven i t := by
  obtain ⟨op, hop, ⟨hend, rfl⟩ | ⟨-, rfl⟩⟩ := exec_next h
  · rcases blockEnd_cases hend with ⟨-, cs, hl⟩ | ⟨-, f, -, hl⟩ | ⟨a, len, f, -, -, hl⟩ <;> rw [hl]
    · simpa [WritesDriven] using hs.again hop hend
    · obtain ⟨b, hg, hb⟩ := afterSample_goto f (op.run s)
      rw [hg]
      exact writesDriven_blockStart rfl fun _ hmain => by rcases hb with rfl | rfl | rfl <;> cases hmain
    · obtain ⟨b, hg, hb⟩ := nextFrame_goto len f (op.run s)
      rw [hg]
      exact writesDriven_blockStart rfl fun _ hmain => by rcases hb with rfl | rfl <;> cases hmain
  · obtain ⟨-, hrest⟩ := hs.at_op hop
    simpa [WritesDriven] using hrest

/-! ### The event of an ignored write -/

/-- `Drive(SDA, w)` is ignored only with SDA an input, and its event says `w` (40_bit_sequencer.md R144). -/
theorem setSda_ignored {v w : Level} {s : State} (h : (setSda w s).trace = s.trace ++ [.sdaIgnored v]) :
    s.sdaDir = .input ∧ w = v := by
  cases hd : s.sdaDir with
  | output =>
    rw [setSda_output w s hd] at h
    cases event_eq_of_append h rfl
  | input =>
    rw [setSda_input w s hd] at h
    cases event_eq_of_append h rfl
    exact ⟨rfl, rfl⟩

/-- A primitive with the event of an ignored write is a write of SDA, of the level the event says. -/
theorem prim_ignored {p : Prim} {v : Level} {s : State} (h : (p.perform s).trace = s.trace ++ [.sdaIgnored v]) :
    s.sdaDir = .input ∧ writesSda p = true ∧ ∀ w, p = .driveSda w → w = v := by
  cases p with
  | setDir | driveScl | delay => cases event_eq_of_append h rfl
  | sample => cases event_eq_of_append h (sampleSda_trace s)
  | driveSda w =>
    obtain ⟨hd, hw⟩ := setSda_ignored h
    exact ⟨hd, rfl, fun _ hp => by cases hp; exact hw⟩
  | driveSdaBit k => exact ⟨(setSda_ignored h).1, rfl, nofun⟩

/-- An engine step that ignores a write of SDA performs that write, with SDA an input. -/
theorem exec_ignored {i : Instr} {u t : State} {v : Level} (h : exec i u = .next t)
    (htrace : t.trace = u.trace ++ [.sdaIgnored v]) :
    ∃ op, (commandCode i u.upc.block)[u.upc.pos]? = some op ∧ u.sdaDir = .input ∧ writesSda op.prim = true ∧
      ∀ w, op.prim = .driveSda w → w = v := by
  obtain ⟨op, hop, htr, -⟩ := exec_afterPrimitive h
  have hprim : (op.prim.perform (runStmts op.before u)).trace = (runStmts op.before u).trace ++ [.sdaIgnored v] := by
    rw [runStmts_trace, ← htrace, htr, MicroOp.run]
  obtain ⟨hd, hw, hv⟩ := prim_ignored hprim
  rw [runStmts_sdaDir] at hd
  exact ⟨op, hop, hd, hw, hv⟩

theorem WritesDriven.not_ignored {i : Instr} {u t : State} {v : Level} (hs : WritesDriven i u)
    (h : exec i u = .next t) : t.trace ≠ u.trace ++ [.sdaIgnored v] := by
  intro htrace
  obtain ⟨op, hop, hd, hw, -⟩ := exec_ignored h htrace
  have hdriven := (hs.at_op hop).1 hw
  rw [hd] at hdriven
  cases hdriven

/-- Of the first three primitives of WAIT_ACK the third writes SDA (42_transmit.md R197). -/
theorem waitAckHead_ignored {n : Nat} (hn : n < 3) {u t : State} {v : Level}
    (hu : u.upc = { block := .main, pos := n }) (h : exec .waitAck u = .next t)
    (htrace : t.trace = u.trace ++ [.sdaIgnored v]) : n = 2 ∧ v = .high := by
  obtain ⟨op, hop, -, hw, hv⟩ := exec_ignored h htrace
  rw [hu] at hop
  rcases (by omega : n = 0 ∨ n = 1 ∨ n = 2) with rfl | rfl | rfl <;> cases hop
  · cases hw
  · cases hw
  · exact ⟨rfl, (hv .high rfl).symm⟩

/-- Past its third primitive WAIT_ACK writes SDA only while it drives it. -/
theorem execN_waitAck_writesDriven {n : Nat} (hn : 3 ≤ n) {s u : State} (hu : s.upc = { block := .main, pos := 0 })
    (h : execN .waitAck n s = .next u) : WritesDriven .waitAck u := by
  obtain ⟨m, rfl⟩ := Nat.exists_eq_add_of_le hn
  rw [execN_then (execN_inside .waitAck .main 3 0 s hu (by decide))] at h
  refine execN_keeps exec_writesDriven ?_ h
  exact waitAckCode_writesDriven _

/-- Settles O45: but for the head of a WAIT_ACK entered with SDA released, every block drives SDA before it writes it;
and in that head one of the primitives is a write, its third. -/
theorem sdaIgnoredOnlyInWaitAck : Obligations.SdaIgnoredOnlyInWaitAck := by
  intro i n s u t v hu hn h htrace
  by_cases hentry : i = .waitAck ∧ s.sdaDir = .input
  · obtain ⟨rfl, hd⟩ := hentry
    rcases Nat.lt_or_ge n 3 with hlt | hge
    · have hpos : u.upc = { block := .main, pos := n } := by
        have hrun := execN_inside .waitAck .main n 0 s hu (show 0 + n < 6 by omega)
        cases hrun.symm.trans hn
        rw [setUpc_upc, Nat.zero_add]
      obtain ⟨hn2, hv⟩ := waitAckHead_ignored hlt hpos h htrace
      exact ⟨rfl, hd, hn2, hv⟩
    · exact absurd htrace ((execN_waitAck_writesDriven hge hu hn).not_ignored h)
  · have hstart : WritesDriven i s := writesDriven_blockStart hu fun hi _ => by
      cases hd : s.sdaDir with
      | output => rfl
      | input => exact absurd ⟨hi, hd⟩ hentry
    exact absurd htrace (WritesDriven.not_ignored (execN_keeps exec_writesDriven hstart hn) h)

end Sys2Proof.Machine.Proofs
end

section
/-! O40. What a send shows on the wire where it finds SCL HIGH: its first bit has no rising edge and so is no pulse, but
a start condition where it is 0 (70_reset_and_hazards.md R302). -/

namespace Sys2Proof.Machine.Proofs
open Sys2Proof.Machine.Laws Sys2Proof.Expected

/-- SHIFT_OUT's first bit and the seven after it. -/
theorem shiftBody_eq_firstBit :
    shiftBody = prims (.setDir .output :: (shiftOutBit 0 ++ shiftTail ((List.range 7).map (· + 1)))) := rfl

/-- The seven bits after the first are sent from SCL LOW, whatever SCL was before. -/
theorem framed_afterFirstBit {s : State} (hd : s.sdaDir = .output) :
    Framed ((List.range 7).map fun k => bit s.shift (k + 1))
      (opStates (prims (shiftTail ((List.range 7).map (· + 1)))) (runOps (prims (shiftOutBit 0)) s)) := by
  have hbit := runOps_shiftOutBit 0 hd
  have h := framed_shiftTail ((List.range 7).map (· + 1)) (s := runOps (prims (shiftOutBit 0)) s)
    (by rw [hbit]; exact hd) (by rw [hbit])
  rwa [show (runOps (prims (shiftOutBit 0)) s).shift = s.shift by rw [hbit], List.map_map] at h

section SclHigh
variable {s : State} (hscl : s.scl = .high)
include hscl

/-- SCL does not rise in the first bit, so no pulse is open when it falls. -/
theorem clockPulses_shiftBody_sclHigh :
    clockPulses (opStates shiftBody s) =
      (List.range 7).map (fun k => { bit := bit s.shift (k + 1), steady := true }) := by
  obtain ⟨hpulses, -⟩ := framed_afterFirstBit (s := (Prim.setDir .output).perform s) rfl
  simp only [clockPulses, shiftOutBit, runOps_prims_cons, runOps_prims_nil, driveSdaBit_perform, prim_shift,
    List.map_map] at hpulses
  rw [shiftBody_eq_firstBit]
  simpa [clockPulses, shiftOutBit, driveSdaBit_perform, hscl, pulsesFrom, Function.comp_def] using hpulses

/-- `Dir(OUT)` keeps SDA HIGH where the latch is HIGH, and the first bit's write is made with SCL HIGH. -/
theorem conditions_shiftBody_sclHigh (hout : s.sdaOut = .high) :
    conditionsFrom startCondition 0 (opStates shiftBody s) = (if bit s.shift 0 = .low then [1] else []) ∧
      conditionsFrom stopCondition 0 (opStates shiftBody s) = [] := by
  obtain ⟨-, hconds⟩ := framed_afterFirstBit (s := (Prim.setDir .output).perform s) rfl
  simp only [shiftOutBit, runOps_prims_cons, runOps_prims_nil, driveSdaBit_perform, prim_shift] at hconds
  rw [shiftBody_eq_firstBit]
  simp [shiftOutBit, driveSdaBit_perform, hscl, hout, hconds]

end SclHigh

/-- A send shows what SHIFT_OUT makes once its statements `cs` have loaded `s.shift`. -/
theorem observed_send {i : Instr} {cs : List Stmt} {s : State} (hu : s.upc = { block := .main, pos := 0 })
    (hcode : commandCode i .main = enter cs shiftBody) :
    (execStates i 42 s).map observed = (opStates shiftBody (runStmts cs s)).map observed := by
  have hlength : (enter cs shiftBody).length = 42 := by rw [enter_length]; rfl
  have hobserved := execStates_observed (i := i) (ops := enter cs shiftBody) hu ⟨[], by rw [hcode]; simp⟩
  rw [hlength] at hobserved
  exact hobserved.trans (observed_enter cs (by decide) s)

/-- Settles O40: either send is SHIFT_OUT once its byte is loaded. -/
theorem sendWithSclHigh : Obligations.SendWithSclHigh := by
  intro i v s hi hu hscl _ hout
  obtain ⟨cs, hcode, hv⟩ : ∃ cs, commandCode i .main = enter cs shiftBody ∧ (runStmts cs s).shift = v := by
    rcases hi with rfl | ⟨a, rw, rfl, rfl⟩
    · exact ⟨[.phase .data, .loadShift v], rfl, rfl⟩
    · exact ⟨[.phase .address, .loadShift (addressFrame a rw)], rfl, addressFrame_eq_append a rw⟩
  have hobserved := observed_send hu hcode
  have hscl' := (runStmts_scl cs s).trans hscl
  rw [clockPulses, wireEvents_congr hobserved, ← clockPulses, conditionsFrom_congr readsObserved_start hobserved,
    conditionsFrom_congr readsObserved_stop hobserved, ← hv]
  exact ⟨clockPulses_shiftBody_sclHigh hscl', conditions_shiftBody_sclHigh hscl' ((runStmts_sdaOut cs s).trans hout)⟩

end Sys2Proof.Machine.Proofs
end

section
/-! O20, O22. The reset input, and INIT through the host port after it (70_reset_and_hazards.md R290, R293). -/

namespace Sys2Proof.Machine.Proofs
open Sys2Proof.Machine.Laws Sys2Proof.Expected

/-- Settles O20: the reset input gives every piece of the block's state its reset value. -/
theorem resetInput : Obligations.ResetInput := by
  intro s rest h
  obtain ⟨hstatus, hresult, hrxdata, hlines, hscl, hdir, hout, hphase, hinit, hbusy, htxbuf, htrace, htime, -⟩ :=
    resetValues
  exact ⟨resetStep { s with turns := rest }, by rw [step, h], hscl, hdir, hout, hphase, hinit, hbusy, hstatus, hresult,
    hrxdata, hlines, htxbuf, htrace, htime⟩

/-- A run begins with its first step. -/
theorem coreRun_succ {M : Host.Core} {k : Nat} {s t : M.State} (h : M.step s = .next t) :
    M.run (k + 1) s = M.run k t := by
  rw [Host.Core.run, h]

/-- An engine turn with a command latched is one engine step of that command (40_bit_sequencer.md R150). -/
theorem coreRun_engineTurn {i : Instr} {k : Nat} {s t : State} {rest : List Turn} (hb : s.busy = true)
    (hd : decode s.cmd = .ok i) (hturns : s.turns = .engine :: rest) (h : exec i { s with turns := rest } = .next t) :
    Sys2Proof.core.run (k + 1) s = Sys2Proof.core.run k t :=
  coreRun_succ (M := Sys2Proof.core) (((stepRunsTheLatchedCommand s i hb hd).1 rest hturns).trans h)

theorem decode_initWord : decode 0x00000001 = .ok .init := sampleWordsDecode.1

/-- The host's write of INIT's word to CMD of an idle block is accepted (40_bit_sequencer.md R153). -/
theorem hostStep_acceptsInit {s : State} {prog : List HostOp} (hb : s.busy = false)
    (hprog : s.hostProg = .write 0x000 .word 0x00000001 :: prog) :
    hostStep s = { accept 0x00000001 s with hostProg := prog } := by
  have hadmitted : Admitted .init s := ⟨.inr rfl, Nat.zero_le _⟩
  rw [hostStep_cons hprog, hostOp, hostAdvance_hostWrite hprog, hostWrite_cmd,
    offer_accepted hb decode_initWord (refusalOf_admitted hadmitted)]

/-- Three engine turns perform an accepted INIT, a primitive each (41_bus_conditions.md R171). -/
theorem coreRun_initTurns {s : State} {rest : List Turn} (hb : s.busy = true) (hcmd : s.cmd = 0x00000001)
    (hu : s.upc = { block := .main, pos := 0 }) (hturns : s.turns = .engine :: .engine :: .engine :: rest) :
    Sys2Proof.core.run 3 s = .next { s with
      phase := .idle, sdaDir := .output, scl := .low, sdaOut := .low, initDone := true, busy := false
      upc := { block := .main, pos := 2 }, trace := s.trace ++ [.dir .output, .scl .low, .sda .low]
      turns := rest } := by
  have hd : decode s.cmd = .ok .init := by rw [hcmd, decode_initWord]
  calc Sys2Proof.core.run 3 s
    _ = Sys2Proof.core.run 2 { s with
          phase := .idle, sdaDir := .output, upc := { block := .main, pos := 1 }, trace := s.trace ++ [.dir .output]
          turns := .engine :: .engine :: rest } := coreRun_engineTurn hb hd hturns (exec_first hu rfl rfl)
    _ = Sys2Proof.core.run 1 { s with
          phase := .idle, sdaDir := .output, scl := .low, upc := { block := .main, pos := 2 }
          trace := s.trace ++ [.dir .output] ++ [.scl .low], turns := .engine :: rest } :=
      coreRun_engineTurn hb hd rfl rfl
    _ = Sys2Proof.core.run 0 { s with
          phase := .idle, sdaDir := .output, scl := .low, sdaOut := .low, initDone := true, busy := false
          upc := { block := .main, pos := 2 }, trace := s.trace ++ [.dir .output] ++ [.scl .low] ++ [.sda .low]
          turns := rest } := coreRun_engineTurn hb hd rfl rfl
    _ = _ := by
      rw [List.append_assoc, List.append_assoc]
      rfl

/-- Settles O22: the host turn accepts INIT, and the three engine turns are its three primitives. -/
theorem bootThroughTheHostPort : Obligations.BootThroughTheHostPort := by
  intro s prog rest hb hprog hturns
  have hhost : step s = .next _ := (hostTurnAlwaysEnabled s).1 _ hturns
  rw [hostStep_acceptsInit (s := { s with turns := .engine :: .engine :: .engine :: rest }) hb hprog] at hhost
  exact ⟨_, (coreRun_succ (M := Sys2Proof.core) hhost).trans (coreRun_initTurns rfl rfl rfl rfl), rfl⟩

end Sys2Proof.Machine.Proofs
end
